-- ==== Sys2Proof/Word.lean ====
section
/-! DEFINITION. The fixed widths of the block: a channel, a packed word and a stream byte
(`00_scope.md` R11, R14). Every value is an unsigned bit vector; none is signed. -/

namespace Sys2Proof

/-- An 8-bit unsigned value: a channel (R11) or a byte of the output stream (R51). -/
abbrev Byte := BitVec 8

/-- A 16-bit unsigned value: a packed word (R82) or an output beat (R83). -/
abbrev Word := BitVec 16

end Sys2Proof
end

