-- ==== Sys2Proof/Machine/Datapath.lean ====
section
/-! DEFINITION. The three combinational functions of `40_datapath.md`, as its pseudocode writes them. None
reads or writes state. -/

namespace Sys2Proof.Machine

/-- `r5 = R >> 3`, `g6 = G >> 2`, `b5 = B >> 3`: logical shifts, truncation (R110, R111). -/
def quantize (r g b : Byte) : BitVec 5 × BitVec 6 × BitVec 5 :=
  ((r >>> 3).setWidth 5, (g >>> 2).setWidth 6, (b >>> 3).setWidth 5)

/-- `(zext_16(r5) << 11) | (zext_16(g6) << 5) | zext_16(b5)` (R113). -/
def pack565 (r5 : BitVec 5) (g6 : BitVec 6) (b5 : BitVec 5) : Word :=
  (r5.setWidth 16 <<< 11) ||| (g6.setWidth 16 <<< 5) ||| b5.setWidth 16

/-- `pack1(R, G, B) = PACK565(QUANTIZE(R, G, B))` (R113). -/
def pack1 (r g b : Byte) : Word :=
  let q := quantize r g b
  pack565 q.1 q.2.1 q.2.2

/-- Swap 0: `{word[15:8], word[7:0]}`; swap 1: `{word[7:0], word[15:8]}` (R116). -/
def bytemux (word : Word) (swap : Bool) : Word :=
  if swap then word.extractLsb' 0 8 ++ word.extractLsb' 8 8
  else word.extractLsb' 8 8 ++ word.extractLsb' 0 8

end Sys2Proof.Machine
end

