-- ==== Sys2Proof/Config.lean ====
section
/-! DEFINITION. What an implementation fixes (`DIM_W`, `00_scope.md` R12), the input ports whose widths
it decides (`10_state.md` R30), and the free values: what the spec leaves open and the model never
picks. -/

namespace Sys2Proof

/-- The implementation parameter of R12 (left OPEN by D4). `DIM_W` is stored as `DIM_W - 1`, so that
`DIM_W >= 1` holds of every value. -/
structure Config where
  dimWLess1 : Nat
deriving DecidableEq, Repr

/-- `DIM_W`: the width of the dimension inputs, their latches and the x and y counters (R12). -/
abbrev Config.dimW (c : Config) : Nat := c.dimWLess1 + 1

/-- `IDX_W = 2 * DIM_W`: the width of the pixel index counter (R12). -/
abbrev Config.idxW (c : Config) : Nat := 2 * c.dimW

/-- `DIM_W = 4`, which the control-operation vectors of `95_test_vectors.md` assume.
DESIGN CHOICE (log entry 1): only `State.reset` uses it; R12 leaves the parameter open. Unsafe for a
statement about `State.reset` itself. -/
def Config.ofVectors : Config := ⟨3⟩

/-- The input ports of R30 at one rising edge of `clk` (the edge itself is the step). One-bit ports are
`Bool` (log entry 13). `pixA` is present and no rule reads it (R117). -/
structure Inputs (c : Config) where
  rst : Bool
  start : Bool
  cfgWidth : BitVec c.dimW
  cfgHeight : BitVec c.dimW
  cfgSwap : Bool
  pixValid : Bool
  pixR : Byte
  pixG : Byte
  pixB : Byte
  pixA : Byte
  outReady : Bool
deriving DecidableEq, Repr, Inhabited

/-- FREE VALUE (log entry 2): the host's inputs at an edge for which `State.pending` names none. "The
host's inputs are free at each edge (a draw in the model)" (R20). The number is the edge's. -/
opaque Config.freeInputs (c : Config) (edge : Nat) : Inputs c

/-- FREE VALUE (log entry 6): what `x == W - 1` answers at an EMIT edge where W is 0. R148 states the
comparison for `W >= 1` alone; only a state before the first reset has W = 0 there. -/
opaque Config.freeLastColumn (c : Config) (edge : Nat) : Bool

/-- FREE VALUE (log entry 6): what `y == H - 1` answers at an EMIT edge where H is 0. -/
opaque Config.freeLastRow (c : Config) (edge : Nat) : Bool

end Sys2Proof
end

