-- ==== Sys2Proof/Syntax.lean ====
section
/-! DEFINITION. The operations of the block (one constructor per row of `spec/opcode_table.json`), the
FSM phases, the encoding formats, what the host offers at a step, and the stimulus notation of
`30_encoding.md` R92. -/

namespace Sys2Proof

/-- The FSM phase (R25). Its two-bit encoding stands in `Decode.lean`. -/
inductive Phase where
  | idle   -- after reset; no pass has started
  | done   -- the last pass finished
  | fetch  -- requesting pixel (x, y)
  | emit   -- offering pixel idx's word as a beat
deriving DecidableEq, Repr

/-- The operations of the block: "The seven control operations and the three datapath functions are
every operation the block has" (R88). A control operation has no operand field: its operands are the
ports at the edge and the registers (R141 to R150). A datapath row carries its input format. -/
inductive Instr where
  | reset                                            -- R141
  | start                                            -- R142, R143
  | hold                                             -- R144
  | fetch                                            -- R146
  | fetchWait                                        -- R147
  | emit                                             -- R148, R149
  | emitWait                                         -- R150
  | quantize (r g b : Byte)                          -- R110; PIX of R81
  | pack565 (r5 : BitVec 5) (g6 : BitVec 6) (b5 : BitVec 5)   -- R113
  | bytemux (swap : Bool) (word : Word)              -- R116
deriving DecidableEq, Repr

/-- The encoding formats of the table (R80 to R83, R87, R91), each of one fixed width. -/
inductive Format where
  | cv6         -- the control vector
  | pix         -- QUANTIZE's input
  | packedWord  -- PACK565's input
  | beat        -- BYTEMUX's input, swap and word
deriving DecidableEq, Repr

/-- The width of a format in bits (R87, R91). -/
def Format.width : Format → Nat
  | .cv6 => 6
  | .pix => 24
  | .packedWord => 16
  | .beat => 17

/-- A word of one format, as the opcode table numbers its bits. -/
structure Encoded where
  format : Format
  word   : Nat
deriving DecidableEq, Repr

/-- The input of one datapath function evaluated by itself (log entry 5). -/
inductive DatapathWord where
  | pix (w : BitVec 24)
  | packedWord (w : BitVec 16)
  | beat (w : BitVec 17)
deriving DecidableEq, Repr

/-- What the host offers for one step: a rising edge of `clk` with its port values (R30, R92), or one
datapath function's input with no clock edge (log entry 5). -/
inductive Line (c : Config) where
  | edge (inp : Inputs c)
  | datapath (d : DatapathWord)
deriving DecidableEq, Repr

/-- One pixel of the host's image: 8-bit unsigned channels (R18, R34). -/
structure Pixel where
  r : Byte
  g : Byte
  b : Byte
  a : Byte
deriving DecidableEq, Repr

/-- The host's pixel accessor `img(x, y)` (R17). It belongs to the host and is no part of State. -/
abbrev Image := Nat → Nat → Pixel

/-- The `op` of a stimulus line (R92). W, H and S are written as numbers; `StimLine.wf` says which fit. -/
inductive StimOp where
  | rst
  | start (w h s : Nat)
  | nop
deriving DecidableEq, Repr

/-- A line of the stimulus notation: `op flag*`, one line per rising edge (R92). -/
structure StimLine where
  op  : StimOp
  pv  : Bool := false   -- "+pv"
  rdy : Bool := false   -- "+rdy"
deriving DecidableEq, Repr

/-- The pseudo-operation `PASS W, H, S`: the START line and 2*W*H times `NOP +pv +rdy` (R93). -/
def StimLine.pass (w h s : Nat) : List StimLine :=
  ⟨.start w h s, false, false⟩ :: List.replicate (2 * w * h) ⟨.nop, true, true⟩

end Sys2Proof
end

