-- ==== Sys2Proof/WellFormed.lean ====
section
/-! DEFINITION. The checks on what is written as plain numbers: words of a format and stimulus lines.
An `Instr` needs none: every field is a bit vector of the width the spec gives it and every value of it
is legal ("No encoding is reserved, illegal or a hint", R90; out-of-range channel values cannot be
written down, R182 and U1). -/

namespace Sys2Proof

/-- The word has no bit above its format's width (R91). -/
def Encoded.wf (e : Encoded) : Bool := e.word < 2 ^ e.format.width

/-- A START's W and H fit the `DIM_W`-bit configuration ports and S is one bit (R28, R84). -/
def StimOp.wf (c : Config) : StimOp → Bool
  | .rst => true
  | .start w h s => (w < 2 ^ c.dimW) && (h < 2 ^ c.dimW) && (s < 2)
  | .nop => true

/-- A stimulus line is well formed when its operands fit the ports (R92). -/
def StimLine.wf (c : Config) (ln : StimLine) : Bool := ln.op.wf c

end Sys2Proof
end

