-- ==== Sys2Proof/Decode.lean ====
section
/-! DEFINITION. The encodings of `30_encoding.md`: the phase bits (R25), the control vector's rows
(R87), the three datapath input formats, decoding from each, and the encoder. -/

namespace Sys2Proof

/-- `phase[1:0]` (R25). -/
def Phase.bits : Phase → BitVec 2
  | .idle => 0b00
  | .done => 0b01
  | .fetch => 0b10
  | .emit => 0b11

/-- The phase two bits stand for (R25): every value is a phase. -/
def Phase.ofBits (b : BitVec 2) : Phase :=
  match b.getLsbD 1, b.getLsbD 0 with
  | false, false => .idle
  | false, true => .done
  | true, false => .fetch
  | true, true => .emit

/-- `CV = {rst, start, pix_valid, out_ready, phase[1:0]}` (R80). -/
def controlVector (rst start pixValid outReady : Bool) (p : Phase) : BitVec 6 :=
  BitVec.ofBool rst ++ BitVec.ofBool start ++ BitVec.ofBool pixValid ++ BitVec.ofBool outReady ++ p.bits

/-- The match and mask of one row of R87. -/
structure CvRow where
  matchBits : BitVec 6
  mask      : BitVec 6
deriving DecidableEq, Repr

/-- "A CV matches a row when `(CV & mask) == match`" (R87). -/
def CvRow.hits (r : CvRow) (cv : BitVec 6) : Bool := cv &&& r.mask == r.matchBits

/-- The seven control rows of R87; a datapath function is not selected by the control vector. -/
def Instr.cvRow : Instr → Option CvRow
  | .reset => some ⟨0b100000, 0b100000⟩
  | .start => some ⟨0b010000, 0b110010⟩
  | .hold => some ⟨0b000000, 0b110010⟩
  | .fetch => some ⟨0b001010, 0b101011⟩
  | .fetchWait => some ⟨0b000010, 0b101011⟩
  | .emit => some ⟨0b000111, 0b100111⟩
  | .emitWait => some ⟨0b000011, 0b100111⟩
  | .quantize _ _ _ => none
  | .pack565 _ _ _ => none
  | .bytemux _ _ => none

/-- The operation's row of R87 takes this control vector. -/
def Instr.selectedBy (i : Instr) (cv : BitVec 6) : Bool :=
  match i.cvRow with
  | some r => r.hits cv
  | none => false

/-- The operation R87 selects. The rows are disjoint and cover all 64 values (R89), so the order of the
tests is of no account and what six rows leave is EMIT_WAIT's. -/
def decodeCV (cv : BitVec 6) : Instr :=
  if Instr.reset.selectedBy cv then .reset
  else if Instr.start.selectedBy cv then .start
  else if Instr.hold.selectedBy cv then .hold
  else if Instr.fetch.selectedBy cv then .fetch
  else if Instr.fetchWait.selectedBy cv then .fetchWait
  else if Instr.emit.selectedBy cv then .emit
  else .emitWait

/-- QUANTIZE's input PIX: R `[23:16]`, G `[15:8]`, B `[7:0]` (R81). -/
def decodePix (w : BitVec 24) : Instr :=
  .quantize (w.extractLsb' 16 8) (w.extractLsb' 8 8) (w.extractLsb' 0 8)

/-- PACK565's input `RRRRRGGGGGGBBBBB` (R113). -/
def decodePackedWord (w : BitVec 16) : Instr :=
  .pack565 (w.extractLsb' 11 5) (w.extractLsb' 5 6) (w.extractLsb' 0 5)

/-- BYTEMUX's input `sHHHHHHHHLLLLLLLL` (R116). -/
def decodeBeat (w : BitVec 17) : Instr := .bytemux (w.getLsbD 16) (w.extractLsb' 0 16)

/-- The function a datapath input belongs to. -/
def DatapathWord.decode : DatapathWord → Instr
  | .pix w => decodePix w
  | .packedWord w => decodePackedWord w
  | .beat w => decodeBeat w

/-- Why a word is no operation. Every word that fits its format is one (R90). -/
inductive DecodeError where
  | wordTooWide   -- a bit is set above the format's width (R91)
deriving DecidableEq, Repr

/-- The operation a word of a format stands for, for any number; a word wider than its format is
rejected by name. -/
def decode (f : Format) (w : Nat) : Except DecodeError Instr :=
  if w < 2 ^ f.width then
    match f with
    | .cv6 => .ok (decodeCV (BitVec.ofNat 6 w))
    | .pix => .ok (decodePix (BitVec.ofNat 24 w))
    | .packedWord => .ok (decodePackedWord (BitVec.ofNat 16 w))
    | .beat => .ok (decodeBeat (BitVec.ofNat 17 w))
  else .error .wordTooWide

/-- The word of an operation. A control operation's unread bits are 0 (log entry 14), so its word is the
row's match. -/
def encode : Instr → Encoded
  | .reset => ⟨.cv6, 0b100000⟩
  | .start => ⟨.cv6, 0b010000⟩
  | .hold => ⟨.cv6, 0b000000⟩
  | .fetch => ⟨.cv6, 0b001010⟩
  | .fetchWait => ⟨.cv6, 0b000010⟩
  | .emit => ⟨.cv6, 0b000111⟩
  | .emitWait => ⟨.cv6, 0b000011⟩
  | .quantize r g b => ⟨.pix, (r ++ g ++ b).toNat⟩
  | .pack565 r5 g6 b5 => ⟨.packedWord, (r5 ++ g6 ++ b5).toNat⟩
  | .bytemux swap word => ⟨.beat, (BitVec.ofBool swap ++ word).toNat⟩

/-- The format an opcode-table word of `nbits` bits is in. QUANTIZE (24 bits) and BYTEMUX (17 bits) both
come as 24 once rounded to whole bytes, and neither row has a fixed bit: of 24 bits, a word that fits
17 is taken as BYTEMUX's. DESIGN CHOICE (log entry 7) about this numbering alone: `decode` and `step`
take the format itself, under which all 2^24 PIX values are QUANTIZE's. -/
def tableFormat (nbits w : Nat) : Option Format :=
  if nbits = 6 ∨ nbits = 8 then some .cv6
  else if nbits = 16 then some .packedWord
  else if nbits = 17 then some .beat
  else if nbits = 24 then some (if w < 2 ^ 17 then .beat else .pix)
  else none

/-- The operation read from an opcode-table word. -/
def decodeTableWord (nbits w : Nat) : Option Instr :=
  match tableFormat nbits w with
  | some f => (decode f w).toOption
  | none => none

end Sys2Proof
end

