-- ==== Sys2Proof/Machine/State.lean ====
section
/-! DEFINITION. The block's eight registers (`10_state.md` R21), the host's side of the ports as plain
data, and the reset state (R37). -/

namespace Sys2Proof.Machine

/-- One transfer on the output port: `Emit(i, d)` of R16, beat `index` with 16-bit `data`. -/
structure Beat where
  index : Nat
  data  : Word
deriving DecidableEq, Repr

/-- The result of a datapath function evaluated by itself (R110, R113, R116; log entry 5). -/
inductive DatapathResult where
  | fields (r5 : BitVec 5) (g6 : BitVec 6) (b5 : BitVec 5)   -- QUANTIZE
  | word (w : Word)                                           -- PACK565
  | beat (d : Word)                                           -- BYTEMUX
deriving DecidableEq, Repr

/-- The machine's state. -/
structure State where
  /-- The implementation's `DIM_W` (R12); no operation changes it. -/
  conf : Config
  /-- FSM phase (R21, R25). -/
  phase : Phase
  /-- `cfg_w_q`: W, the latched image width (R21, R29). -/
  cfgWQ : BitVec conf.dimW
  /-- `cfg_h_q`: H, the latched image height (R21, R29). -/
  cfgHQ : BitVec conf.dimW
  /-- `cfg_swap_q`: the latched byte-order flag (R21, R29). -/
  cfgSwapQ : Bool
  /-- Column of the current pixel (R21, R24). -/
  x : BitVec conf.dimW
  /-- Row of the current pixel (R21, R24). -/
  y : BitVec conf.dimW
  /-- Pixel index of the current pixel (R21, R24). -/
  idx : BitVec conf.idxW
  /-- Packed word of the current pixel, before the byte-order mux (R21, R36). -/
  wreg : Word
  /-- MODEL'S OWN (log entry 2): what the host offers at the coming steps, the next first. -/
  pending : List (Line conf)
  /-- MODEL'S OWN (log entry 3): how many clock edges have passed; it indexes the free values. -/
  edges : Nat
  /-- MODEL'S OWN (log entry 9): the beats transferred before the last START, in order. -/
  earlier : List Beat
  /-- MODEL'S OWN (log entry 9): the output stream of R17, the beats transferred since the last START. -/
  stream : List Beat
  /-- MODEL'S OWN (log entry 5): the last result of a datapath function evaluated by itself. -/
  probe : Option DatapathResult
deriving DecidableEq, Repr

/-- Nothing raises a fault: "No operation of the block raises an exception, records a fault or sets an
error status" (R180, log entry 15). The type is closed and empty. -/
inductive Fault where
deriving DecidableEq, Repr

/-- Why a step could be refused. -/
inductive Refusal where
  /-- An operation of the table with no meaning yet: raised by its arm of `exec` alone. No arm raises it
  in this model. Safe. -/
  | notModelled (mnemonic : String)
deriving DecidableEq, Repr

/-- The state after an edge with `rst = 1` (R37), for any `DIM_W`. The model's own fields are empty or 0
(DESIGN CHOICE, log entry 3). -/
def State.resetOf (c : Config) : State where
  conf := c
  phase := .idle
  cfgWQ := 0
  cfgHQ := 0
  cfgSwapQ := false
  x := 0
  y := 0
  idx := 0
  wreg := 0
  pending := []
  edges := 0
  earlier := []
  stream := []
  probe := none

/-- The state after reset. It is the state AFTER the reset edge; the state at power-up is unspecified
(R200, log entry 4). Its `DIM_W` is 4 (DESIGN CHOICE, log entry 1). -/
def State.reset : State := State.resetOf Config.ofVectors

end Sys2Proof.Machine
end

