-- ==== Sys2Proof/Machine/Flags.lean ====
section
/-! DEFINITION. The status flags (`10_state.md` R26, R27). The block has no others; no operation writes
one, since each is a function of `phase`. -/

namespace Sys2Proof.Machine

/-- `busy = phase[1]` (R26). -/
def State.busy (s : State) : Bool := s.phase.bits.getLsbD 1

/-- `done = (phase == DONE)` (R27). -/
def State.done (s : State) : Bool := s.phase == .done

end Sys2Proof.Machine
end

