-- ==== Sys2Proof/Machine/Memory.lean ====
section
/-! DEFINITION. The byte-addressed space of the output stream (`10_state.md` R35): byte offsets and the
bytes written there. It belongs to the sink; the block writes it by EMIT alone and never reads it. -/

namespace Sys2Proof.Machine

/-- Byte offsets with the byte written there, by rising offset, each once. -/
abbrev Memory := List Host.Cell

/-- The canonical form: offsets strictly rising. An unlisted offset reads as nothing (no byte written),
which no entry holds, so equal memories are equal lists. -/
abbrev Memory.wf (m : Memory) : Prop := m.Pairwise (fun a b => a.1 < b.1)

/-- What is at an offset: the byte written there, or nothing (log entry 9). -/
def Memory.read : Memory → Nat → Option Byte
  | [], _ => none
  | (k, v) :: m, a => if k = a then some v else Memory.read m a

/-- One byte stored, in place. -/
def Memory.write : Memory → Nat → Byte → Memory
  | [], a, b => [(a, b)]
  | (k, v) :: m, a, b =>
    if a < k then (a, b) :: (k, v) :: m
    else if a = k then (a, b) :: m
    else (k, v) :: Memory.write m a b

/-- The first of the two offsets beat `i` covers (R51). -/
def beatOffset (i : Nat) : Nat := 2 * i

/-- Lane 0 of a beat, `d[7:0]`, the earlier stream byte (R83). -/
def lane0 (d : Word) : Byte := d.extractLsb' 0 8

/-- Lane 1 of a beat, `d[15:8]` (R83). -/
def lane1 (d : Word) : Byte := d.extractLsb' 8 8

/-- Beat `i` with data `d` places lane 0 at `2*i` and lane 1 at `2*i+1` (R51). -/
def Memory.storeBeat (m : Memory) (i : Nat) (d : Word) : Memory :=
  (m.write (beatOffset i) (lane0 d)).write (beatOffset i + 1) (lane1 d)

end Sys2Proof.Machine
end

