-- ==== Sys2Proof/Machine/Operands.lean ====
section
/-! DEFINITION. The operands of an operation: the port values sampled at the edge (`10_state.md` R30),
the control vector they form with the phase (`30_encoding.md` R80), and the pixel read (`00_scope.md`
R16). -/

namespace Sys2Proof.Machine

/-- What a host offers next: the head of its list, else an edge with the inputs given. -/
def nextOffer {c : Config} (pending : List (Line c)) (free : Inputs c) : Line c :=
  match pending with
  | [] => .edge free
  | l :: _ => l

/-- The ports of a line; a datapath line has no edge, and no control operation runs on it. -/
def portsOf {c : Config} (l : Line c) (free : Inputs c) : Inputs c :=
  match l with
  | .edge i => i
  | .datapath _ => free

/-- The line is a clock edge. -/
def isEdge {c : Config} (l : Line c) : Bool :=
  match l with
  | .edge _ => true
  | .datapath _ => false

/-- The free values of the input ports at the coming edge (R20, log entry 2). -/
def State.freeInp (s : State) : Inputs s.conf := Config.freeInputs s.conf s.edges

/-- What the host offers at the coming step; past the end of `pending` its inputs are free. -/
def State.line (s : State) : Line s.conf := nextOffer s.pending s.freeInp

/-- `in`: the input ports sampled at the coming edge (R16, R30). -/
def State.inp (s : State) : Inputs s.conf := portsOf s.line s.freeInp

/-- The coming step is a clock edge. -/
def State.atEdge (s : State) : Bool := isEdge s.line

/-- `CV = {in.rst, in.start, in.pix_valid, in.out_ready, s.phase[1:0]}` (R80, R140). -/
def State.cv (s : State) : BitVec 6 :=
  controlVector s.inp.rst s.inp.start s.inp.pixValid s.inp.outReady s.phase

/-- `PixRead()`: the channels on the pixel port at the edge (R16, R146). -/
def State.pixRead (s : State) : Pixel :=
  ⟨s.inp.pixR, s.inp.pixG, s.inp.pixB, s.inp.pixA⟩

end Sys2Proof.Machine
end

