-- ==== Sys2Proof/Machine/Ops.lean ====
section
/-! DEFINITION. The output ports (`10_state.md` R31), the scan advance (`41_scanner.md` R149), and the
register updates the operations are made of. The block takes no exception and returns from none
(`60_exceptions.md` R180, R185, R186), so no such operation stands here. -/

namespace Sys2Proof.Machine

/-! ## Output ports: Moore functions of the registers (R31); `busy` and `done` are in Flags.lean -/

/-- `pix_req` (R31). -/
def State.pixReq (s : State) : Bool := s.phase == .fetch

/-- `pix_x` (R31). -/
def State.pixX (s : State) : BitVec s.conf.dimW := s.x

/-- `pix_y` (R31). -/
def State.pixY (s : State) : BitVec s.conf.dimW := s.y

/-- `out_valid` (R31). -/
def State.outValid (s : State) : Bool := s.phase == .emit

/-- `out_data` (R31). -/
def State.outData (s : State) : Word := bytemux s.wreg s.cfgSwapQ

/-- `out_index` (R31). -/
def State.outIndex (s : State) : BitVec s.conf.idxW := s.idx

/-! ## The scan position -/

/-- `pos == dim - 1`; where `dim` is 0 the answer is the free value (R148, log entry 6). -/
def atLast {n : Nat} (pos dim : BitVec n) (free : Bool) : Bool :=
  if dim = 0 then free else pos == dim - 1

/-- `last = (x == W - 1) && (y == H - 1)` (R148). -/
def State.lastPixel (s : State) : Bool :=
  atLast s.x s.cfgWQ (Config.freeLastColumn s.conf s.edges) &&
    atLast s.y s.cfgHQ (Config.freeLastRow s.conf s.edges)

/-- `ADVANCE(x, y) = (x + 1 < W) ? (x + 1, y) : (0, y + 1)`, in the counters' width (R149, R15). -/
def advance {n : Nat} (w x y : BitVec n) : BitVec n × BitVec n :=
  if x + 1 < w then (x + 1, y) else (0, y + 1)

/-! ## Register updates -/

/-- The writes of RESET: every register takes its reset value (R37, R141). -/
def State.clearRegisters (s : State) : State :=
  { s with phase := .idle, cfgWQ := 0, cfgHQ := 0, cfgSwapQ := false, x := 0, y := 0, idx := 0, wreg := 0 }

/-- The writes of START: the configuration is latched, the position cleared, and the pass opened, or
finished at once when a dimension is 0 (R142, R143). A new output stream begins (R17). -/
def State.openPass (s : State) : State :=
  { s with
    cfgWQ := s.inp.cfgWidth
    cfgHQ := s.inp.cfgHeight
    cfgSwapQ := s.inp.cfgSwap
    x := 0
    y := 0
    idx := 0
    phase := if s.inp.cfgWidth == 0 || s.inp.cfgHeight == 0 then .done else .fetch
    earlier := s.earlier ++ s.stream
    stream := [] }

/-- The writes of FETCH: the packed word is held for EMIT (R146). -/
def State.holdWord (s : State) (w : Word) : State := { s with wreg := w, phase := .emit }

/-- `Emit(idx, out_data)`: the beat offered on the output port is transferred (R16, R148). -/
def State.transferBeat (s : State) : State :=
  { s with stream := s.stream ++ [⟨s.outIndex.toNat, s.outData⟩] }

/-- The register writes of EMIT: the next position and index, and DONE after the last pixel (R148). -/
def State.nextPixel (s : State) : State :=
  let p := advance s.cfgWQ s.x s.y
  { s with x := p.1, y := p.2, idx := s.idx + 1, phase := if s.lastPixel then .done else .fetch }

/-- The result pins of a datapath function evaluated by itself; no register is written (log entry 5). -/
def State.showResult (s : State) (r : DatapathResult) : State := { s with probe := some r }

/-! ## The byte stream -/

/-- The bytes of the stream in order: for each beat `d[7:0]`, then `d[15:8]` (R17, R51). -/
def byteStream (beats : List Beat) : List Byte :=
  beats.flatMap fun b => [lane0 b.data, lane1 b.data]

/-- The stream's byte-offset space (R35): every beat stored at its two offsets. -/
def streamMemory (beats : List Beat) : Memory :=
  beats.foldl (fun m b => m.storeBeat b.index b.data) []

/-- The byte at an offset of the current output stream, or nothing where none has been transferred. -/
def State.readByte (s : State) (a : Nat) : Option Byte := (streamMemory s.stream).read a

end Sys2Proof.Machine
end

