-- ==== Sys2Proof/Machine/Combinational.lean ====
section
/-! DEFINITION. The meanings of the three datapath rows, each evaluated by itself: its result appears, no
register and no flag is written (`40_datapath.md` R110, R113, R116). -/

namespace Sys2Proof.Machine

/-- QUANTIZE (R110). -/
def execQuantize (r g b : Byte) (s : State) : Host.Outcome State Fault Refusal :=
  let q := quantize r g b
  .next (s.showResult (.fields q.1 q.2.1 q.2.2))

/-- PACK565 (R113). -/
def execPack565 (r5 : BitVec 5) (g6 : BitVec 6) (b5 : BitVec 5) (s : State) :
    Host.Outcome State Fault Refusal :=
  .next (s.showResult (.word (pack565 r5 g6 b5)))

/-- BYTEMUX (R116). -/
def execBytemux (swap : Bool) (word : Word) (s : State) : Host.Outcome State Fault Refusal :=
  .next (s.showResult (.beat (bytemux word swap)))

end Sys2Proof.Machine
end

