-- ==== Sys2Proof/Machine/Scanner.lean ====
section
/-! DEFINITION. The meanings of the seven control operations (`41_scanner.md`). Each is what the operation
does once the control vector has selected it (log entry 10). -/

namespace Sys2Proof.Machine

/-- RESET (R141): every register takes its reset value; nothing is captured or transferred. -/
def execReset (s : State) : Host.Outcome State Fault Refusal := .next s.clearRegisters

/-- START (R142, R143). -/
def execStart (s : State) : Host.Outcome State Fault Refusal := .next s.openPass

/-- HOLD (R144): `s' = s`. -/
def execHold (s : State) : Host.Outcome State Fault Refusal := .next s

/-- FETCH (R146): pixel (x, y) is captured and packed; alpha is not read (R117). -/
def execFetch (s : State) : Host.Outcome State Fault Refusal :=
  let p := s.pixRead
  .next (s.holdWord (pack1 p.r p.g p.b))

/-- FETCH_WAIT (R147): `s' = s`. -/
def execFetchWait (s : State) : Host.Outcome State Fault Refusal := .next s

/-- EMIT (R148): the beat is transferred from the registers as they stand, then the position moves. -/
def execEmit (s : State) : Host.Outcome State Fault Refusal := .next s.transferBeat.nextPixel

/-- EMIT_WAIT (R150): `s' = s`. -/
def execEmitWait (s : State) : Host.Outcome State Fault Refusal := .next s

end Sys2Proof.Machine
end

