-- ==== Sys2Proof/Machine/Dispatch.lean ====
section
/-! DEFINITION. One arm per operation of `spec/opcode_table.json`. -/

namespace Sys2Proof.Machine

def exec (i : Instr) (s : State) : Host.Outcome State Fault Refusal :=
  match i with
  | .reset => Sys2Proof.Machine.execReset s
  | .start => Sys2Proof.Machine.execStart s
  | .hold => Sys2Proof.Machine.execHold s
  | .fetch => Sys2Proof.Machine.execFetch s
  | .fetchWait => Sys2Proof.Machine.execFetchWait s
  | .emit => Sys2Proof.Machine.execEmit s
  | .emitWait => Sys2Proof.Machine.execEmitWait s
  | .quantize r g b => Sys2Proof.Machine.execQuantize r g b s
  | .pack565 r5 g6 b5 => Sys2Proof.Machine.execPack565 r5 g6 b5 s
  | .bytemux swap word => Sys2Proof.Machine.execBytemux swap word s

end Sys2Proof.Machine
end

