-- ==== Sys2Proof/Machine/Fetch.lean ====
section
/-! DEFINITION. Which operation the coming step performs (`41_scanner.md` R140), how the host's list moves
on after it, and how one opcode-table word is offered to the machine. -/

namespace Sys2Proof.Machine

/-- At an edge, the row of R87 the control vector matches (R140); on a datapath line, the function its
input belongs to (log entry 5). -/
def State.fetched (s : State) : Instr :=
  match s.line with
  | .edge _ => decodeCV s.cv
  | .datapath d => d.decode

/-- The host moves on: its line is used up, and an edge has been counted if there was one. -/
def State.nextLine (s : State) : State :=
  { s with pending := s.pending.tail, edges := if s.atEdge then s.edges + 1 else s.edges }

/-- What the step adds around an operation. -/
def finishStep : Host.Outcome State Fault Refusal → Host.Outcome State Fault Refusal
  | .next t => .next t.nextLine
  | .fault f => .fault f
  | .refused r => .refused r

/-- Port values that form the host half of a control vector: every other port is 0 (the operand words of
an opcode-table word are zeros). -/
def inputsOfCV (c : Config) (cv : BitVec 6) : Inputs c where
  rst := cv.getLsbD 5
  start := cv.getLsbD 4
  cfgWidth := 0
  cfgHeight := 0
  cfgSwap := false
  pixValid := cv.getLsbD 3
  pixR := 0
  pixG := 0
  pixB := 0
  pixA := 0
  outReady := cv.getLsbD 2

/-- The state that offers a control vector at the next edge: the phase is that of its low bits, the host
drives the rest (log entry 8). -/
def State.offerCV (s : State) (cv : BitVec 6) : State :=
  { s with
    phase := Phase.ofBits (cv.extractLsb' 0 2)
    pending := .edge (inputsOfCV s.conf cv) :: s.pending }

/-- The state that offers a datapath input at the next step. -/
def State.offerDatapath (s : State) (d : DatapathWord) : State :=
  { s with pending := .datapath d :: s.pending }

/-- The state that offers a word of a format at the next step. -/
def State.offer (s : State) (f : Format) (w : Nat) : State :=
  match f with
  | .cv6 => s.offerCV (BitVec.ofNat 6 w)
  | .pix => s.offerDatapath (.pix (BitVec.ofNat 24 w))
  | .packedWord => s.offerDatapath (.packedWord (BitVec.ofNat 16 w))
  | .beat => s.offerDatapath (.beat (BitVec.ofNat 17 w))

end Sys2Proof.Machine
end

