-- ==== Sys2Proof/Machine/Step.lean ====
section
/-! DEFINITION. One step: "At every rising edge of `clk`, the block performs exactly one operation"
(`41_scanner.md` R140), and the host moves on to what it offers next. -/

namespace Sys2Proof.Machine

/-- One step of the machine. -/
def step (s : State) : Host.Outcome State Fault Refusal := finishStep (exec s.fetched s)

/-- The state whose next step runs the operation of an opcode-table word (log entry 8): the word's phase
bits become the phase and the host drives the rest, or the host offers the datapath input. -/
def State.withFetchWord (s : State) (nbits w : Nat) : State :=
  match tableFormat nbits w with
  | some f => s.offer f w
  | none => s

end Sys2Proof.Machine
end

