-- ==== Sys2Proof/Machine/Stimulus.lean ====
section
/-! DEFINITION. The stimulus notation of `30_encoding.md` R92 and R93: what a host that follows it drives
at each edge. -/

namespace Sys2Proof

/-- The line's encoding, the host nibble `{rst, start, pv, rdy}`: CV bits [5:2] (R92). -/
def StimLine.nibble (ln : StimLine) : BitVec 4 :=
  match ln.op with
  | .rst => 0b10#2 ++ BitVec.ofBool ln.pv ++ BitVec.ofBool ln.rdy
  | .start _ _ _ => 0b01#2 ++ BitVec.ofBool ln.pv ++ BitVec.ofBool ln.rdy
  | .nop => 0b00#2 ++ BitVec.ofBool ln.pv ++ BitVec.ofBool ln.rdy

/-- Ports with the configuration of a START line; on another line they are don't-care and keep the value
given (R92). -/
def Inputs.withOp {c : Config} (i : Inputs c) : StimOp → Inputs c
  | .rst => i
  | .start w h s => { i with cfgWidth := BitVec.ofNat _ w, cfgHeight := BitVec.ofNat _ h, cfgSwap := s == 1 }
  | .nop => i

/-- Ports with a pixel on the channels. -/
def Inputs.withPixel {c : Config} (i : Inputs c) (p : Pixel) : Inputs c :=
  { i with pixR := p.r, pixG := p.g, pixB := p.b, pixA := p.a }

/-- Ports with the four one-bit inputs of a host nibble. -/
def Inputs.withNibble {c : Config} (i : Inputs c) (n : BitVec 4) : Inputs c :=
  { i with rst := n.getLsbD 3, start := n.getLsbD 2, pixValid := n.getLsbD 1, outReady := n.getLsbD 0 }

namespace Machine

/-- The ports whose values a stimulus line leaves open: they are free (R92 "don't-care", log entry 11),
but for the channels on a `+pv` line in FETCH, which are `img(pix_x, pix_y)`. -/
def State.openPorts (img : Image) (ln : StimLine) (s : State) : Inputs s.conf :=
  let free := Config.freeInputs s.conf s.edges
  if ln.pv && s.pixReq then free.withPixel (img s.pixX.toNat s.pixY.toNat) else free

/-- The inputs a stimulus line drives in a state, for the host's image (R92). -/
def State.stimulus (img : Image) (ln : StimLine) (s : State) : Inputs s.conf :=
  ((s.openPorts img ln).withOp ln.op).withNibble ln.nibble

/-- The host drives one stimulus line at the coming edge. -/
def State.drive (img : Image) (ln : StimLine) (s : State) : State :=
  { s with pending := .edge (s.stimulus img ln) :: s.pending }

/-- A stimulus program run line by line, one line per rising edge (R92). -/
def runStimulus (img : Image) : List StimLine → State → Host.Outcome State Fault Refusal
  | [], s => .next s
  | ln :: rest, s =>
    match step (s.drive img ln) with
    | .next t => runStimulus img rest t
    | .fault f => .fault f
    | .refused r => .refused r

end Machine

end Sys2Proof
end

