-- ==== Sys2Proof/Safety.lean ====
section
/-! DEFINITION. The terms claims are stated in: the invariant of `41_scanner.md` R158, the host's duties
and the image a pass is about (`20_memory.md` R66), the output stream it must give (R58, R151), and what
a host does that serves every pixel (R67). -/

namespace Sys2Proof.Safety

open Sys2Proof.Machine

/-- IDLE's clause of R158: "every register is 0". -/
abbrev RegistersZero (s : State) : Prop :=
  s.cfgWQ = 0 ∧ s.cfgHQ = 0 ∧ s.cfgSwapQ = false ∧ s.x = 0 ∧ s.y = 0 ∧ s.idx = 0 ∧ s.wreg = 0

/-- FETCH's and EMIT's clause of R158. -/
abbrev InsideImage (s : State) : Prop :=
  1 ≤ s.cfgWQ.toNat ∧ 1 ≤ s.cfgHQ.toNat ∧ s.x.toNat < s.cfgWQ.toNat ∧ s.y.toNat < s.cfgHQ.toNat ∧
    s.idx.toNat = s.y.toNat * s.cfgWQ.toNat + s.x.toNat

/-- DONE's clause of R158. -/
abbrev PassFinished (s : State) : Prop :=
  s.idx.toNat = s.cfgWQ.toNat * s.cfgHQ.toNat ∧ s.idx.toNat = s.y.toNat * s.cfgWQ.toNat + s.x.toNat ∧
    ((s.cfgWQ.toNat * s.cfgHQ.toNat = 0 ∧ s.x = 0 ∧ s.y = 0) ∨
      (0 < s.cfgWQ.toNat * s.cfgHQ.toNat ∧ s.x = 0 ∧ s.y = s.cfgHQ))

/-- The invariant of R158, phase by phase. -/
abbrev PositionInv (s : State) : Prop :=
  (s.phase = .idle → RegistersZero s) ∧
    (s.phase = .fetch ∨ s.phase = .emit → InsideImage s) ∧
    (s.phase = .done → PassFinished s)

/-- The states reachable from a reset (R158, R200): what a RESET edge leaves, whatever came before it,
and what any step leads to from there. -/
inductive Launched : State → Prop where
  | afterReset (s t : State) : s.fetched = .reset → step s = .next t → Launched t
  | afterStep (s t : State) : Launched s → step s = .next t → Launched t

/-- The packed word of a pixel: `pack1(img(x,y).R, .G, .B)` (R151). -/
def packPixel (p : Pixel) : Word := pack1 p.r p.g p.b

/-- Beat `k` of a pass of width `w`: `out_index = k` and
`out_data = bytemux(pack1(img(k mod W, k div W)), S)` (R151). -/
def beatOf (img : Image) (w : Nat) (swap : Bool) (k : Nat) : Beat :=
  ⟨k, bytemux (packPixel (img (k % w) (k / w))) swap⟩

/-- The first `n` beats of a pass, in order. -/
def beatsUpTo (img : Image) (w : Nat) (swap : Bool) (n : Nat) : List Beat :=
  (List.range n).map (beatOf img w swap)

/-- Byte `j` of the stream S of R58: `S[2i]` and `S[2i+1]` are the two bytes of pixel i's word, least
significant first when swap is 0. -/
def streamByte (img : Image) (w : Nat) (swap : Bool) (j : Nat) : Byte :=
  let word := packPixel (img (j / 2 % w) (j / 2 / w))
  if (j % 2 == 1) == swap then word.extractLsb' 0 8 else word.extractLsb' 8 8

/-- H-IMG at the coming edge (R66): where `pix_req` and `pix_valid` are 1, the channels are those of
`img(pix_x, pix_y)`. The value of `pix_a` is free. H-CONST is that `img` is one fixed image (log entry 16). -/
abbrev HostShows (img : Image) (s : State) : Prop :=
  s.pixReq = true → s.inp.pixValid = true →
    s.inp.pixR = (img s.pixX.toNat s.pixY.toNat).r ∧ s.inp.pixG = (img s.pixX.toNat s.pixY.toNat).g ∧
      s.inp.pixB = (img s.pixX.toNat s.pixY.toNat).b

/-- What a pass over `img` has done so far: outside IDLE the stream is the first `idx` beats, and in EMIT
`wreg` holds the word of pixel (x, y) (R151). -/
abbrev PassInv (img : Image) (s : State) : Prop :=
  (s.phase ≠ .idle → s.stream = beatsUpTo img s.cfgWQ.toNat s.cfgSwapQ s.idx.toNat) ∧
    (s.phase = .emit → s.wreg = packPixel (img s.x.toNat s.y.toNat))

/-- What the host drives while one pixel is served: edges that wait for `pix_valid`, the edge that answers,
edges that wait for `out_ready`, the edge that takes the beat (R67). -/
structure Service (c : Config) where
  fetchWaits : List (Inputs c)
  fetchEdge  : Inputs c
  emitWaits  : List (Inputs c)
  emitEdge   : Inputs c

/-- The edges of a service, in order. -/
def Service.inputs {c : Config} (v : Service c) : List (Inputs c) :=
  v.fetchWaits ++ v.fetchEdge :: (v.emitWaits ++ [v.emitEdge])

/-- The service has no RESET edge, waits and answers as its parts say, and shows the pixel `p`; every
other port is free. -/
def Service.serves {c : Config} (v : Service c) (p : Pixel) : Prop :=
  (∀ i ∈ v.fetchWaits, i.rst = false ∧ i.pixValid = false) ∧
    (v.fetchEdge.rst = false ∧ v.fetchEdge.pixValid = true ∧
      v.fetchEdge.pixR = p.r ∧ v.fetchEdge.pixG = p.g ∧ v.fetchEdge.pixB = p.b) ∧
    (∀ i ∈ v.emitWaits, i.rst = false ∧ i.outReady = false) ∧
    (v.emitEdge.rst = false ∧ v.emitEdge.outReady = true)

/-- The services of a whole pass: one for each pixel, in scan order (R155). -/
def ServesPass {c : Config} (img : Image) (w n : Nat) (vs : List (Service c)) : Prop :=
  vs.length = n ∧ ∀ k (h : k < vs.length), (vs[k]).serves (img (k % w) (k / w))

/-- `k` steps of the machine, stopping where it stops. -/
def runSteps : Nat → State → Host.Outcome State Fault Refusal
  | 0, s => .next s
  | k + 1, s =>
    match step s with
    | .next t => runSteps k t
    | .fault f => .fault f
    | .refused r => .refused r

/-- The state with another list of coming host lines. -/
def withPending (s : State) (ls : List (Line s.conf)) : State := { s with pending := ls }

/-- The values of two sets of ports that the operation of a phase reads (R184): `rst` always; then `start`,
and with it the configuration, in IDLE and DONE; `pix_valid`, and with it R, G and B, in FETCH;
`out_ready` in EMIT. -/
def AgreeWhereRead {c : Config} (p : Phase) (i j : Inputs c) : Prop :=
  i.rst = j.rst ∧ (i.rst = false →
    match p with
    | .idle | .done => i.start = j.start ∧
        (i.start = true → i.cfgWidth = j.cfgWidth ∧ i.cfgHeight = j.cfgHeight ∧ i.cfgSwap = j.cfgSwap)
    | .fetch => i.pixValid = j.pixValid ∧
        (i.pixValid = true → i.pixR = j.pixR ∧ i.pixG = j.pixG ∧ i.pixB = j.pixB)
    | .emit => i.outReady = j.outReady)

end Sys2Proof.Safety
end

