-- ==== Sys2Proof/Certificates/Slice0/Obligations.lean ====
section
/-! DEFINITION. The statements for the provers: what the numbered rules of `spec/` say the block does. Each
docstring names the rule. "Every state" includes every state the block may power up in (R200), so no
statement below rests on a register's value at power-up, on a free value, or on `State.reset`'s
`DIM_W`. -/

open Sys2Proof Sys2Proof.Machine Sys2Proof.Safety

/-! ## Reset -/

/-- R141, R37, R202: RESET is what an edge with `rst = 1` performs, and no other edge; from every state it
puts every register at its reset value and leaves the transferred beats and the host alone; then every
output port reads 0. -/
def Obligations.ResetForcesTheResetValues : Prop :=
  ∀ s : State,
    (s.atEdge = true → (s.fetched = .reset ↔ s.inp.rst = true)) ∧
    ∃ t : State, t = { s with
        phase := .idle, cfgWQ := 0, cfgHQ := 0, cfgSwapQ := false, x := 0, y := 0, idx := 0, wreg := 0x0000 } ∧
      exec .reset s = .next t ∧
      t.busy = false ∧ t.done = false ∧ t.pixReq = false ∧ t.outValid = false ∧
      t.pixX.toNat = 0 ∧ t.pixY.toNat = 0 ∧ t.outData = 0x0000 ∧ t.outIndex.toNat = 0

/-- R203: a reset while a pass is running keeps the beats already transferred, transfers no beat even where
one is offered and taken, and offers nothing more; over an image, the sink then holds a prefix of
2*k bytes, where k is `out_index` just before the edge. -/
def Obligations.ResetDuringPassAbandonsIt : Prop :=
  ∀ s t : State, s.busy = true → s.atEdge = true → s.inp.rst = true → step s = .next t →
    t.stream = s.stream ∧ t.earlier = s.earlier ∧ (∀ a, t.readByte a = s.readByte a) ∧
    t.outValid = false ∧ t.pixReq = false ∧ t.busy = false ∧ t.done = false ∧
    ∀ img, PassInv img s → (byteStream t.stream).length = 2 * s.outIndex.toNat

/-! ## Encodings and the operation map -/

/-- R80: the six bits of the control vector. -/
def Obligations.ControlVectorBits : Prop :=
  ∀ s : State,
    s.cv.getLsbD 5 = s.inp.rst ∧ s.cv.getLsbD 4 = s.inp.start ∧ s.cv.getLsbD 3 = s.inp.pixValid ∧
    s.cv.getLsbD 2 = s.inp.outReady ∧ s.cv.extractLsb' 0 2 = s.phase.bits

/-- R89 (and the patterns of R87): the rows are disjoint and cover all 64 control vectors; which bits each
row reads, and how many vectors each takes. -/
def Obligations.ControlRowsPartitionAllVectors : Prop :=
  (∀ cv : BitVec 6, ∃ i, i.selectedBy cv = true ∧ ∀ j : Instr, j.selectedBy cv = true → j = i) ∧
  (∀ cv : BitVec 6,
    Instr.reset.selectedBy cv = cv.getLsbD 5 ∧
    Instr.start.selectedBy cv = (!cv.getLsbD 5 && cv.getLsbD 4 && !cv.getLsbD 1) ∧
    Instr.hold.selectedBy cv = (!cv.getLsbD 5 && !cv.getLsbD 4 && !cv.getLsbD 1) ∧
    Instr.fetch.selectedBy cv = (!cv.getLsbD 5 && cv.getLsbD 3 && cv.getLsbD 1 && !cv.getLsbD 0) ∧
    Instr.fetchWait.selectedBy cv = (!cv.getLsbD 5 && !cv.getLsbD 3 && cv.getLsbD 1 && !cv.getLsbD 0) ∧
    Instr.emit.selectedBy cv = (!cv.getLsbD 5 && cv.getLsbD 2 && cv.getLsbD 1 && cv.getLsbD 0) ∧
    Instr.emitWait.selectedBy cv = (!cv.getLsbD 5 && !cv.getLsbD 2 && cv.getLsbD 1 && cv.getLsbD 0)) ∧
  [Instr.reset, .start, .hold, .fetch, .fetchWait, .emit, .emitWait].map
      (fun i => (List.range 64).countP fun k => i.selectedBy (BitVec.ofNat 6 k)) =
    [32, 8, 8, 4, 4, 4, 4]

/-- R140: at an edge the block performs the operation whose row matches the control vector, and no other;
between edges the state does not change, so that operation is the whole step of the registers. -/
def Obligations.EdgePerformsTheMatchingOperation : Prop :=
  ∀ (s : State) (i : Instr), s.atEdge = true →
    (s.fetched = i ↔ i.selectedBy s.cv = true) ∧
    (i.selectedBy s.cv = true → ∀ t, exec i s = .next t → step s = .next t.nextLine)

/-- R184: what wins when several inputs are active at one edge. -/
def Obligations.InputPriorityAtAnEdge : Prop :=
  ∀ s : State, s.atEdge = true →
    (s.inp.rst = true → s.fetched = .reset) ∧
    (s.inp.rst = false → (s.phase = .idle ∨ s.phase = .done) →
      s.fetched = if s.inp.start then .start else .hold) ∧
    (s.inp.rst = false → s.phase = .fetch → s.fetched = if s.inp.pixValid then .fetch else .fetchWait) ∧
    (s.inp.rst = false → s.phase = .emit → s.fetched = if s.inp.outReady then .emit else .emitWait)

/-- Every operation's word fits its format and decodes back to it, with every operand at every value. -/
def Obligations.DecodingAnEncodedOperationGivesItBack : Prop :=
  ∀ i : Instr, (encode i).wf = true ∧ decode (encode i).format (encode i).word = .ok i

/-- A word has one meaning: a datapath word is the word of the operation it decodes to, and a control
vector agrees with its operation's match under the row's mask (R87). That the encoder's word of a control
operation is the match itself, with the unread bits 0, is the model's choice (log entry 14). -/
def Obligations.WordsHaveOneMeaning : Prop :=
  ∀ (f : Format) (w : Nat) (i : Instr), decode f w = .ok i →
    (f ≠ .cv6 → encode i = ⟨f, w⟩) ∧
    (f = .cv6 → ∃ r, i.cvRow = some r ∧ BitVec.ofNat 6 w &&& r.mask = r.matchBits ∧
      (encode i).word = r.matchBits.toNat)

/-- R90: no encoding is reserved or illegal: every word that fits its format is an operation, and only a
wider one is rejected. -/
def Obligations.EveryFittingWordIsAnOperation : Prop :=
  ∀ (f : Format) (w : Nat),
    (w < 2 ^ f.width → ∃ i, decode f w = .ok i) ∧
    (2 ^ f.width ≤ w → decode f w = .error .wordTooWide)

/-- Words written out from the encodings of R80, R81, R113 and R116 (vectors C1, C10, Q12, B2 of
`95_test_vectors.md`). -/
def Obligations.WordsOfTheTableDecode : Prop :=
  decode .cv6 0b111111 = .ok .reset ∧ decode .cv6 0b010001 = .ok .start ∧
  decode .cv6 0b001101 = .ok .hold ∧ decode .cv6 0b011110 = .ok .fetch ∧
  decode .cv6 0b010010 = .ok .fetchWait ∧ decode .cv6 0b010111 = .ok .emit ∧
  decode .cv6 0b011011 = .ok .emitWait ∧
  decode .pix 0x123456 = .ok (.quantize 0x12 0x34 0x56) ∧
  decode .packedWord 0x11AA = .ok (.pack565 2 13 10) ∧
  decode .beat 0x1ABCD = .ok (.bytemux true 0xABCD)

/-- A step runs the fetched operation: what the operation leaves is what the step leaves, but that the
host's line is used up and an edge is counted. -/
def Obligations.StepRunsTheFetchedOperation : Prop :=
  ∀ (s : State) (i : Instr) (t : State), s.fetched = i → exec i s = .next t →
    step s = .next { t with
      pending := t.pending.tail, edges := if t.atEdge then t.edges + 1 else t.edges }

/-- A table word placed by `withFetchWord` is what the next step runs. -/
def Obligations.OfferedTableWordRunsNext : Prop :=
  ∀ (s : State) (nbits w : Nat) (i : Instr), decodeTableWord nbits w = some i →
    (s.withFetchWord nbits w).fetched = i ∧
    step (s.withFetchWord nbits w) = finishStep (exec i (s.withFetchWord nbits w))

/-! ## Datapath -/

/-- R110, R111, R112: QUANTIZE gives R[7:3], G[7:2] and B[7:3], that is the channels divided and rounded
down; each shifted channel fits its field, so nothing is clamped and nothing is lost. -/
def Obligations.QuantizeTruncatesToTheTopBits : Prop :=
  ∀ r g b : Byte,
    quantize r g b = (r.extractLsb' 3 5, g.extractLsb' 2 6, b.extractLsb' 3 5) ∧
    ((r >>> 3).toNat ≤ 31 ∧ (g >>> 2).toNat ≤ 63 ∧ (b >>> 3).toNat ≤ 31) ∧
    (quantize r g b).1.toNat = r.toNat / 8 ∧ (quantize r g b).2.1.toNat = g.toNat / 4 ∧
    (quantize r g b).2.2.toNat = b.toNat / 8

/-- R113, R82: PACK565 lays the fields out as {r5, g6, b5}, each found again at its bits, and `pack1` of a
pixel is `((R >> 3) << 11) | ((G >> 2) << 5) | (B >> 3)`. -/
def Obligations.PackLaysOutTheFields : Prop :=
  (∀ (r5 : BitVec 5) (g6 : BitVec 6) (b5 : BitVec 5),
    pack565 r5 g6 b5 = r5 ++ g6 ++ b5 ∧
    pack565 r5 g6 b5 = (r5.setWidth 16 <<< 11) ||| (g6.setWidth 16 <<< 5) ||| b5.setWidth 16 ∧
    (pack565 r5 g6 b5).extractLsb' 11 5 = r5 ∧ (pack565 r5 g6 b5).extractLsb' 5 6 = g6 ∧
    (pack565 r5 g6 b5).extractLsb' 0 5 = b5) ∧
  ∀ r g b : Byte,
    pack1 r g b =
      ((r.setWidth 16 >>> 3) <<< 11) ||| ((g.setWidth 16 >>> 2) <<< 5) ||| (b.setWidth 16 >>> 3)

/-- R113's word as a number: the three fields weigh 2048, 32 and 1, and nothing overlaps. -/
def Obligations.PackedWordAsANumber : Prop :=
  ∀ r g b : Byte,
    (pack1 r g b).toNat = r.toNat / 8 * 2048 + g.toNat / 4 * 32 + b.toNat / 8

/-- R85: the packed word, bit field by bit field, from PIX = {R, G, B}. -/
def Obligations.PackedWordAssembledFromPix : Prop :=
  ∀ r g b : Byte,
    (pack1 r g b).extractLsb' 11 5 = (r ++ g ++ b).extractLsb' 19 5 ∧
    (pack1 r g b).extractLsb' 5 6 = (r ++ g ++ b).extractLsb' 10 6 ∧
    (pack1 r g b).extractLsb' 0 5 = (r ++ g ++ b).extractLsb' 3 5

/-- R118: a packed word expanded to channels packs to itself. -/
def Obligations.ExpandedWordPacksToItself : Prop :=
  ∀ w : Word,
    pack1 ((w.extractLsb' 11 5).setWidth 8 <<< 3) ((w.extractLsb' 5 6).setWidth 8 <<< 2)
      ((w.extractLsb' 0 5).setWidth 8 <<< 3) = w

/-- R115: the word depends on the 16 kept bits, and (the other direction) on each of them. -/
def Obligations.PackedWordIsTheKeptBits : Prop :=
  ∀ r g b r' g' b' : Byte,
    pack1 r g b = pack1 r' g' b' ↔
      r.extractLsb' 3 5 = r'.extractLsb' 3 5 ∧ g.extractLsb' 2 6 = g'.extractLsb' 2 6 ∧
      b.extractLsb' 3 5 = b'.extractLsb' 3 5

/-- R116, R86: BYTEMUX's two lanes for each swap value, with R116's corner cases: swap 0 is the identity,
swap 1 twice is the identity, and a word gives the same beat for both exactly when its bytes are equal. -/
def Obligations.BytemuxOrdersTheLanes : Prop :=
  ∀ w : Word,
    bytemux w false = w ∧
    (bytemux w true).extractLsb' 0 8 = w.extractLsb' 8 8 ∧ (bytemux w true).extractLsb' 8 8 = w.extractLsb' 0 8 ∧
    bytemux (bytemux w true) true = w ∧
    (bytemux w true = bytemux w false ↔ w.extractLsb' 0 8 = w.extractLsb' 8 8)

/-- Each datapath row, evaluated by itself from any state, completes: its result is shown, and no register
is written (R110, R113, R116 name the values and say none writes state; that the result is shown in
`probe` is the model's choice, log entry 5). -/
def Obligations.DatapathFunctionsComplete : Prop :=
  (∀ (r g b : Byte) (s : State),
    exec (.quantize r g b) s = .next { s with
      probe := some (.fields (r.extractLsb' 3 5) (g.extractLsb' 2 6) (b.extractLsb' 3 5)) }) ∧
  (∀ (r5 : BitVec 5) (g6 : BitVec 6) (b5 : BitVec 5) (s : State),
    exec (.pack565 r5 g6 b5) s = .next { s with probe := some (.word (r5 ++ g6 ++ b5)) }) ∧
  ∀ (swap : Bool) (word : Word) (s : State),
    exec (.bytemux swap word) s = .next { s with
      probe := some (.beat
        (if swap then word.extractLsb' 0 8 ++ word.extractLsb' 8 8 else word)) }

/-- A datapath function evaluated by itself takes no edge and writes no register (log entry 5). -/
def Obligations.DatapathLineWritesNoRegister : Prop :=
  ∀ (s : State) (d : DatapathWord), s.line = .datapath d →
    ∃ r, step s = .next { s with probe := some r, pending := s.pending.tail }

/-! ## Control operations -/

/-- R142: START is what an edge with `rst = 0` and `start = 1` in IDLE or DONE performs; it latches the
configuration, clears the position and goes to FETCH, or to DONE for a zero dimension, from every state;
`wreg` is not written, and no transferred beat is lost. (How the beats are kept is
StartBeginsANewStream's.) -/
def Obligations.StartLatchesAndOpensAPass : Prop :=
  ∀ s : State,
    (s.atEdge = true → (s.fetched = .start ↔
      s.inp.rst = false ∧ s.inp.start = true ∧ (s.phase = .idle ∨ s.phase = .done))) ∧
    ∃ (t : State) (past now : List Beat), t = { s with
        cfgWQ := s.inp.cfgWidth, cfgHQ := s.inp.cfgHeight, cfgSwapQ := s.inp.cfgSwap,
        x := 0, y := 0, idx := 0,
        phase := if s.inp.cfgWidth = 0 ∨ s.inp.cfgHeight = 0 then .done else .fetch,
        earlier := past, stream := now } ∧
      exec .start s = .next t ∧
      (t.busy = true ↔ s.inp.cfgWidth ≠ 0 ∧ s.inp.cfgHeight ≠ 0) ∧
      (t.done = true ↔ s.inp.cfgWidth = 0 ∨ s.inp.cfgHeight = 0) ∧
      past ++ now = s.earlier ++ s.stream

/-- START begins a new, empty output stream ("the sequence of beats `Emit`ted since the last START", R17)
and loses no transferred beat: those of the pass before go to `earlier`, a field that is the model's
choice (log entry 9). -/
def Obligations.StartBeginsANewStream : Prop :=
  ∀ s : State, ∃ t, exec .start s = .next t ∧ t.stream = [] ∧ t.earlier = s.earlier ++ s.stream ∧
    ∀ a, t.readByte a = none

/-- R143: a START with a zero dimension latches the configuration, goes straight to DONE with
`x = y = idx = 0`, requests no pixel and transfers no beat. -/
def Obligations.ZeroDimensionMakesAnEmptyPass : Prop :=
  ∀ s : State, s.fetched = .start → s.inp.cfgWidth = 0 ∨ s.inp.cfgHeight = 0 →
    ∃ t, step s = .next t ∧ t.phase = .done ∧
      t.cfgWQ.toNat = s.inp.cfgWidth.toNat ∧ t.cfgHQ.toNat = s.inp.cfgHeight.toNat ∧
      t.cfgSwapQ = s.inp.cfgSwap ∧ t.x.toNat = 0 ∧ t.y.toNat = 0 ∧ t.idx.toNat = 0 ∧
      t.pixReq = false ∧ t.outValid = false ∧ t.stream = [] ∧ ∀ a, t.readByte a = none

/-- R144, R147, R150: when HOLD, FETCH_WAIT and EMIT_WAIT apply, and that each leaves the state as it is. -/
def Obligations.WaitsWriteNothing : Prop :=
  ∀ s : State,
    (s.atEdge = true →
      (s.fetched = .hold ↔
        s.inp.rst = false ∧ s.inp.start = false ∧ (s.phase = .idle ∨ s.phase = .done)) ∧
      (s.fetched = .fetchWait ↔ s.inp.rst = false ∧ s.inp.pixValid = false ∧ s.phase = .fetch) ∧
      (s.fetched = .emitWait ↔ s.inp.rst = false ∧ s.inp.outReady = false ∧ s.phase = .emit)) ∧
    exec .hold s = .next s ∧ exec .fetchWait s = .next s ∧ exec .emitWait s = .next s

/-- R146: FETCH is what an edge with `rst = 0` and `pix_valid = 1` in FETCH performs; it packs the channels
on the port into `wreg` and goes to EMIT, from every state; nothing else changes. -/
def Obligations.FetchHoldsThePackedPixel : Prop :=
  ∀ s : State,
    (s.atEdge = true → (s.fetched = .fetch ↔
      s.inp.rst = false ∧ s.inp.pixValid = true ∧ s.phase = .fetch)) ∧
    exec .fetch s = .next { s with
      wreg := pack1 s.inp.pixR s.inp.pixG s.inp.pixB, phase := .emit }

/-- EMIT completes in every state, and what it leaves alone (R148). Where W and H are not 0 the last pixel is
where `x == W - 1` and `y == H - 1`; where one of them is 0 the spec gives no answer and the statement
says nothing of it (log entry 6). -/
def Obligations.EmitCompletesInEveryState : Prop :=
  ∀ s : State, ∃ last : Bool,
    exec .emit s = .next { s with
      x := if s.x + 1 < s.cfgWQ then s.x + 1 else 0
      y := if s.x + 1 < s.cfgWQ then s.y else s.y + 1
      idx := s.idx + 1
      phase := if last then .done else .fetch
      stream := s.stream ++ [⟨s.idx.toNat, bytemux s.wreg s.cfgSwapQ⟩] } ∧
    (s.cfgWQ ≠ 0 → s.cfgHQ ≠ 0 → last = (s.x == s.cfgWQ - 1 && s.y == s.cfgHQ - 1))

/-- R148, R149: EMIT is what an edge with `rst = 0` and `out_ready = 1` in EMIT performs; in a state of a
running pass it transfers beat idx and moves one pixel on in row-major order, in exact arithmetic; the
last pixel leads to DONE with `x = 0`, `y = H` and `idx = W*H`, and before it the block stays busy. -/
def Obligations.EmitTransfersAndAdvances : Prop :=
  ∀ s : State,
    (s.atEdge = true → (s.fetched = .emit ↔
      s.inp.rst = false ∧ s.inp.outReady = true ∧ s.phase = .emit)) ∧
    (InsideImage s → ∃ t : State, t = { s with
        x := if s.x.toNat + 1 < s.cfgWQ.toNat then BitVec.ofNat _ (s.x.toNat + 1) else 0
        y := if s.x.toNat + 1 < s.cfgWQ.toNat then s.y else BitVec.ofNat _ (s.y.toNat + 1)
        idx := BitVec.ofNat _ (s.idx.toNat + 1)
        phase := if s.x.toNat + 1 = s.cfgWQ.toNat ∧ s.y.toNat + 1 = s.cfgHQ.toNat then .done else .fetch
        stream := s.stream ++ [⟨s.idx.toNat, bytemux s.wreg s.cfgSwapQ⟩] } ∧
      exec .emit s = .next t ∧ t.idx.toNat = s.idx.toNat + 1 ∧
      (t.busy = true ↔ ¬(s.x.toNat + 1 = s.cfgWQ.toNat ∧ s.y.toNat + 1 = s.cfgHQ.toNat)) ∧
      (t.done = true ↔ s.x.toNat + 1 = s.cfgWQ.toNat ∧ s.y.toNat + 1 = s.cfgHQ.toNat) ∧
      (t.done = true → t.x.toNat = 0 ∧ t.y.toNat = s.cfgHQ.toNat ∧
        t.idx.toNat = s.cfgWQ.toNat * s.cfgHQ.toNat))

/-- R21: "No operation other than those listed writes a register", the table's last column, for every
operation and every register; no operation changes `DIM_W` or the host's list. -/
def Obligations.OnlyTheListedOperationsWrite : Prop :=
  ∀ (i : Instr) (s t : State), exec i s = .next t →
    t.conf = s.conf ∧ HEq t.pending s.pending ∧ t.edges = s.edges ∧
    (t.phase ≠ s.phase → i = .reset ∨ i = .start ∨ i = .fetch ∨ i = .emit) ∧
    (t.cfgWQ.toNat ≠ s.cfgWQ.toNat → i = .reset ∨ i = .start) ∧
    (t.cfgHQ.toNat ≠ s.cfgHQ.toNat → i = .reset ∨ i = .start) ∧
    (t.cfgSwapQ ≠ s.cfgSwapQ → i = .reset ∨ i = .start) ∧
    (t.x.toNat ≠ s.x.toNat → i = .reset ∨ i = .start ∨ i = .emit) ∧
    (t.y.toNat ≠ s.y.toNat → i = .reset ∨ i = .start ∨ i = .emit) ∧
    (t.idx.toNat ≠ s.idx.toNat → i = .reset ∨ i = .start ∨ i = .emit) ∧
    (t.wreg ≠ s.wreg → i = .reset ∨ i = .fetch) ∧
    (t.probe ≠ s.probe → i.cvRow = none)

/-- R35, R51: EMIT writes the stream's bytes 2*idx and 2*idx+1, lane 0 and lane 1 of `out_data`, and no
other; every other operation but START, whose stream is a new one, leaves every byte; no operation but
START moves a beat to `earlier` (a field of the model's choice, log entry 9). -/
def Obligations.StreamBytesWrittenByEmitAlone : Prop :=
  ∀ (i : Instr) (s t : State), exec i s = .next t →
    (i = .emit → t.readByte (2 * s.outIndex.toNat) = some (s.outData.extractLsb' 0 8) ∧
      t.readByte (2 * s.outIndex.toNat + 1) = some (s.outData.extractLsb' 8 8) ∧
      ∀ a, a ≠ 2 * s.outIndex.toNat → a ≠ 2 * s.outIndex.toNat + 1 → t.readByte a = s.readByte a) ∧
    (i ≠ .start → t.earlier = s.earlier) ∧
    (i ≠ .emit → i ≠ .start → t.stream = s.stream ∧ ∀ a, t.readByte a = s.readByte a)

/-- R26, R27, R31, R36: the flags and the handshake outputs, phase by phase. -/
def Obligations.OutputsDecodeThePhase : Prop :=
  ∀ s : State,
    (s.busy = true ↔ s.phase = .fetch ∨ s.phase = .emit) ∧ (s.done = true ↔ s.phase = .done) ∧
    (s.pixReq = true ↔ s.phase = .fetch) ∧ (s.outValid = true ↔ s.phase = .emit) ∧
    (s.phase = .idle ↔ s.busy = false ∧ s.done = false) ∧
    s.pixX = s.x ∧ s.pixY = s.y ∧ s.outIndex = s.idx ∧
    s.outData = (if s.cfgSwapQ then s.wreg.extractLsb' 0 8 ++ s.wreg.extractLsb' 8 8 else s.wreg)

/-- R180: no operation raises an exception: every step from every state goes on. -/
def Obligations.EveryStepGoesOn : Prop :=
  ∀ s : State, ∃ t, step s = .next t

/-! ## Inputs that are not read -/

/-- R117: no operation reads `pix_a`, and no output or register depends on it. -/
def Obligations.AlphaIsNeverRead : Prop :=
  ∀ (s : State) (i : Inputs s.conf) (a : Byte) (ls : List (Line s.conf)),
    step (withPending s (.edge i :: ls)) = step (withPending s (.edge { i with pixA := a } :: ls))

/-- R145: while the block is busy, an edge performs RESET or one of the four operations that read neither
`start` nor the configuration, these inputs have no effect, the pass goes on with its latched W, H and
swap, and only a reset takes the block to IDLE. -/
def Obligations.StartIsIgnoredWhileBusy : Prop :=
  ∀ s : State, s.busy = true →
    (s.atEdge = true → s.fetched ∈ [Instr.reset, .fetch, .fetchWait, .emit, .emitWait]) ∧
    (∀ (i : Inputs s.conf) (b sw : Bool) (w h : BitVec s.conf.dimW) (ls : List (Line s.conf)),
      step (withPending s (.edge i :: ls)) =
        step (withPending s
          (.edge { i with start := b, cfgWidth := w, cfgHeight := h, cfgSwap := sw } :: ls))) ∧
    ∀ t, step s = .next t → s.fetched ≠ .reset →
      t.phase ≠ .idle ∧ t.cfgWQ.toNat = s.cfgWQ.toNat ∧ t.cfgHQ.toNat = s.cfgHQ.toNat ∧
      t.cfgSwapQ = s.cfgSwapQ

/-- The host's liberties (R66, R184, R205): inputs that agree where the phase reads them have the same
effect. -/
def Obligations.UnreadInputsHaveNoEffect : Prop :=
  ∀ (s : State) (i j : Inputs s.conf) (ls : List (Line s.conf)), AgreeWhereRead s.phase i j →
    step (withPending s (.edge i :: ls)) = step (withPending s (.edge j :: ls))

/-- R208: while a beat is offered, `out_data` and `out_index` do not change until EMIT or RESET. -/
def Obligations.OfferedBeatIsStable : Prop :=
  ∀ s t : State, s.outValid = true → s.fetched ≠ .emit → s.fetched ≠ .reset → step s = .next t →
    t.outValid = true ∧ t.outData = s.outData ∧ t.outIndex.toNat = s.outIndex.toNat

/-- R206: `start` is a level: in DONE a held `start` opens a new pass at the next edge, whose index restarts
at 0 and whose beats follow those already transferred; the edge after the START of a non-empty pass is
no START edge. -/
def Obligations.HeldStartRunsAgain : Prop :=
  ∀ s : State, s.atEdge = true → s.inp.rst = false → s.inp.start = true → s.done = true →
    ∃ t, step s = .next t ∧ t.idx.toNat = 0 ∧ t.stream = [] ∧ t.earlier = s.earlier ++ s.stream ∧
      (s.inp.cfgWidth ≠ 0 → s.inp.cfgHeight ≠ 0 → t.busy = true ∧ t.fetched ≠ .start)

/-- R67, U11: without `pix_valid` the block waits in FETCH for any number of edges, and without
`out_ready` in EMIT, with every register as it was. -/
def Obligations.UnansweredHandshakeHangs : Prop :=
  ∀ (s : State) (is : List (Inputs s.conf)) (ls : List (Line s.conf)),
    s.pending = is.map Line.edge ++ ls →
    (s.phase = .fetch ∧ (∀ i ∈ is, i.rst = false ∧ i.pixValid = false)) ∨
      (s.phase = .emit ∧ (∀ i ∈ is, i.rst = false ∧ i.outReady = false)) →
    runSteps is.length s = .next { s with pending := ls, edges := s.edges + is.length }

/-! ## The pass -/

/-- R158's invariant holds of the state after reset, for every `DIM_W`. -/
def Obligations.PositionInvariantAtReset : Prop :=
  ∀ c : Config, PositionInv (State.resetOf c)

/-- R158: each operation keeps the invariant, from every state that meets it and not only from reset; IDLE
is left only by START, and only RESET enters it. -/
def Obligations.StepKeepsPositionInvariant : Prop :=
  ∀ s t : State, PositionInv s → step s = .next t →
    PositionInv t ∧ (s.phase = .idle → t.phase ≠ .idle → s.fetched = .start) ∧
    (s.phase ≠ .idle → t.phase = .idle → s.fetched = .reset)

/-- R158: every state reachable from a reset satisfies the invariant for its phase. -/
def Obligations.LaunchedStatesMeetPositionInvariant : Prop :=
  ∀ s : State, Launched s → PositionInv s

/-- R157: no counter overflows or wraps while a pass runs. -/
def Obligations.NoCounterOverflows : Prop :=
  ∀ s : State, InsideImage s →
    s.x.toNat + 1 ≤ s.cfgWQ.toNat ∧ s.y.toNat + 1 ≤ s.cfgHQ.toNat ∧
    s.idx.toNat + 1 ≤ s.cfgWQ.toNat * s.cfgHQ.toNat ∧
    s.cfgWQ.toNat * s.cfgHQ.toNat ≤ (2 ^ s.conf.dimW - 1) ^ 2 ∧
    (2 ^ s.conf.dimW - 1) ^ 2 < 2 ^ s.conf.idxW

/-- R32, R153, R155: a requested coordinate lies inside the image and is that of the current index, and so
is the coordinate of an offered beat. -/
def Obligations.RequestIsThePixelOfTheIndex : Prop :=
  ∀ s : State, PositionInv s → s.pixReq = true ∨ s.outValid = true →
    s.pixX.toNat < s.cfgWQ.toNat ∧ s.pixY.toNat < s.cfgHQ.toNat ∧
    s.outIndex.toNat < s.cfgWQ.toNat * s.cfgHQ.toNat ∧
    s.pixX.toNat = s.outIndex.toNat % s.cfgWQ.toNat ∧ s.pixY.toNat = s.outIndex.toNat / s.cfgWQ.toNat

/-- R156: at most one pixel is in the block: only FETCH leads to EMIT, without moving the index; EMIT is
left by the transfer of its beat, which moves the index by one, or by a reset. -/
def Obligations.OnePixelInTheBlockAtATime : Prop :=
  ∀ s t : State, PositionInv s → step s = .next t →
    (s.phase ≠ .emit → t.phase = .emit → s.fetched = .fetch ∧ t.idx.toNat = s.idx.toNat) ∧
    (s.phase = .emit → s.fetched ≠ .fetch) ∧
    (s.phase = .emit → t.phase ≠ .emit → s.fetched ≠ .reset →
      s.fetched = .emit ∧ t.idx.toNat = s.idx.toNat + 1 ∧ (t.phase = .fetch ∨ t.phase = .done))

/-- A START opens a pass over any image: nothing has been transferred and the pass invariant holds
(R142, R151). -/
def Obligations.StartOpensAPassOverAnyImage : Prop :=
  ∀ (img : Image) (s t : State), s.fetched = .start → step s = .next t → PassInv img t

/-- R151 step by step: while the host shows the image `img` (H-IMG, H-CONST), the beats transferred stay
exactly the first `idx` beats of the contract, in order, and EMIT holds the word of its pixel. -/
def Obligations.StepKeepsPassInvariant : Prop :=
  ∀ (img : Image) (s t : State), PositionInv s → PassInv img s →
    (s.atEdge = true → HostShows img s) → step s = .next t → PassInv img t

/-- R154, R152: `done` means that every one of the `W*H` beats has been transferred, each that of its pixel,
and `out_index` is `W*H`; the stream has 2*W*H bytes. -/
def Obligations.DoneMeansTheStreamIsComplete : Prop :=
  ∀ (img : Image) (s : State), PositionInv s → PassInv img s → s.done = true →
    s.outIndex.toNat = s.cfgWQ.toNat * s.cfgHQ.toNat ∧
    s.stream = beatsUpTo img s.cfgWQ.toNat s.cfgSwapQ (s.cfgWQ.toNat * s.cfgHQ.toNat) ∧
    (byteStream s.stream).length = 2 * s.cfgWQ.toNat * s.cfgHQ.toNat

/-- R58, R50, R51: the bytes of the first `n` beats are the first `2*n` bytes of S, in the byte stream and
at their offsets, and no byte lies past them. -/
def Obligations.StreamBytesAreThoseOfTheImage : Prop :=
  ∀ (img : Image) (w n : Nat) (swap : Bool) (j : Nat),
    (byteStream (beatsUpTo img w swap n)).length = 2 * n ∧
    (j < 2 * n → (byteStream (beatsUpTo img w swap n))[j]? = some (streamByte img w swap j) ∧
      (streamMemory (beatsUpTo img w swap n)).read j = some (streamByte img w swap j)) ∧
    (2 * n ≤ j → (streamMemory (beatsUpTo img w swap n)).read j = none)

/-- R151, R152, R153: the pass contract. From any state in IDLE or DONE, reached or not, a START of a
`W x H` image, then a host that with no reset shows every pixel in scan order and takes every beat, each
after any number of waits and with every unread port free: the block transfers exactly `W*H` beats, in
order, beat k that of pixel (k mod W, k div W), whose `2*W*H` bytes are those of R58's stream S, and is
then in DONE. The number of edges is that of R211: `2*W*H` after START and one for each wait. The model's
choices, and no rule of the spec: that the beats before the pass stand in `earlier` (log entry 9), and that
the host's lines are a list of which the rest is still to come (log entry 2). The host's duties are
premises (log entry 16). -/
def Obligations.PassContract : Prop :=
  ∀ (img : Image) (s : State) (i : Inputs s.conf) (vs : List (Service s.conf)) (ls : List (Line s.conf)),
    s.busy = false → i.rst = false → i.start = true →
    ServesPass img i.cfgWidth.toNat (i.cfgWidth.toNat * i.cfgHeight.toNat) vs →
    s.pending = (i :: vs.flatMap Service.inputs).map Line.edge ++ ls →
    ∃ t, runSteps (1 + (2 * i.cfgWidth.toNat * i.cfgHeight.toNat +
          (vs.map fun v => v.fetchWaits.length + v.emitWaits.length).sum)) s = .next t ∧
      t.done = true ∧
      t.stream = beatsUpTo img i.cfgWidth.toNat i.cfgSwap (i.cfgWidth.toNat * i.cfgHeight.toNat) ∧
      (byteStream t.stream).length = 2 * i.cfgWidth.toNat * i.cfgHeight.toNat ∧
      (∀ j, j < 2 * i.cfgWidth.toNat * i.cfgHeight.toNat →
        (byteStream t.stream)[j]? = some (streamByte img i.cfgWidth.toNat i.cfgSwap j)) ∧
      t.outIndex.toNat = i.cfgWidth.toNat * i.cfgHeight.toNat ∧
      t.cfgWQ.toNat = i.cfgWidth.toNat ∧ t.cfgHQ.toNat = i.cfgHeight.toNat ∧ t.cfgSwapQ = i.cfgSwap ∧
      HEq t.pending ls ∧ t.earlier = s.earlier ++ s.stream

/-- R211: with `pix_valid` and `out_ready` held at 1, FETCH of index k is at edge 2k+1 after START, EMIT of
index k at edge 2k+2, and DONE is entered at edge 2*W*H. That the host's inputs are a list is the model's
choice (log entry 2). -/
def Obligations.ContinuousServiceTiming : Prop :=
  ∀ (s : State) (i : Inputs s.conf) (js : List (Inputs s.conf)) (ls : List (Line s.conf)),
    s.busy = false → i.rst = false → i.start = true →
    (∀ j ∈ js, j.rst = false ∧ j.pixValid = true ∧ j.outReady = true) →
    js.length = 2 * i.cfgWidth.toNat * i.cfgHeight.toNat →
    s.pending = (i :: js).map Line.edge ++ ls →
    (∀ k, k < i.cfgWidth.toNat * i.cfgHeight.toNat →
      (∃ t, runSteps (2 * k + 1) s = .next t ∧ t.fetched = .fetch ∧ t.idx.toNat = k) ∧
      (∃ t, runSteps (2 * k + 2) s = .next t ∧ t.fetched = .emit ∧ t.idx.toNat = k)) ∧
    (∃ t, runSteps (2 * i.cfgWidth.toNat * i.cfgHeight.toNat + 1) s = .next t ∧ t.done = true)

/-- R93: the pseudo-operation PASS runs a whole pass of the host's image from IDLE or DONE and ends in DONE
at its last line; the word left in `wreg` is not stated here. The model's choices, and no rule of the spec:
the ports a line leaves open are free values (log entry 11), the beats before the pass stand in `earlier`
(log entry 9), what the host had queued is still to come (log entry 2) and the edges are counted (log
entry 3). -/
def Obligations.PassNotationRunsAWholePass : Prop :=
  ∀ (img : Image) (s : State) (w h b : Nat), s.busy = false →
    (∀ ln ∈ StimLine.pass w h b, StimLine.wf s.conf ln = true) →
    ∃ v : Word, runStimulus img (StimLine.pass w h b) s = .next { s with
      phase := .done
      cfgWQ := BitVec.ofNat _ w
      cfgHQ := BitVec.ofNat _ h
      cfgSwapQ := b == 1
      x := 0
      y := if w * h = 0 then 0 else BitVec.ofNat _ h
      idx := BitVec.ofNat _ (w * h)
      wreg := v
      edges := s.edges + 1 + 2 * w * h
      earlier := s.earlier ++ s.stream
      stream := beatsUpTo img w (b == 1) (w * h) }
end

