-- ==== Sys2Proof/Laws/Decode.lean ====
section
/-! SUPPORT. The phase bits, the control vector and the rows of R87. -/

namespace Sys2Proof

@[simp] theorem Phase.ofBits_bits (p : Phase) : Phase.ofBits p.bits = p := by
  cases p <;> rfl

@[simp] theorem Phase.bits_ofBits : ∀ b : BitVec 2, (Phase.ofBits b).bits = b := by
  decide

/-- The operation a control vector decodes to is one whose row takes it (R87, R89). -/
theorem decodeCV_selected : ∀ cv : BitVec 6, (decodeCV cv).selectedBy cv = true := by
  decide

/-- No two rows take one control vector (R89): the first one found is the only one. -/
theorem eq_decodeCV_of_selected {i : Instr} {cv : BitVec 6} (h : i.selectedBy cv = true) :
    i = decodeCV cv := by
  have rows : ∀ v : BitVec 6, ∀ j ∈ [Instr.reset, .start, .hold, .fetch, .fetchWait, .emit, .emitWait],
      j.selectedBy v = true → j = decodeCV v := by decide
  cases i with
  | quantize r g b => cases h
  | pack565 r5 g6 b5 => cases h
  | bytemux swap word => cases h
  | reset => exact rows cv _ (by simp) h
  | start => exact rows cv _ (by simp) h
  | hold => exact rows cv _ (by simp) h
  | fetch => exact rows cv _ (by simp) h
  | fetchWait => exact rows cv _ (by simp) h
  | emit => exact rows cv _ (by simp) h
  | emitWait => exact rows cv _ (by simp) h

/-- What the rows say of the ports and the phase, row by row (R87, R184). -/
theorem decodeCV_controlVector (rst start pv rdy : Bool) (p : Phase) :
    decodeCV (controlVector rst start pv rdy p) =
      if rst then .reset
      else match p with
        | .idle | .done => if start then .start else .hold
        | .fetch => if pv then .fetch else .fetchWait
        | .emit => if rdy then .emit else .emitWait := by
  cases rst <;> cases start <;> cases pv <;> cases rdy <;> cases p <;> decide

/-- A word that fits its format is an operation (R90). -/
theorem decode_of_fits {f : Format} {w : Nat} (h : w < 2 ^ f.width) :
    decode f w = match (generalizing := false) f with
      | .cv6 => .ok (decodeCV (BitVec.ofNat 6 w))
      | .pix => .ok (decodePix (BitVec.ofNat 24 w))
      | .packedWord => .ok (decodePackedWord (BitVec.ofNat 16 w))
      | .beat => .ok (decodeBeat (BitVec.ofNat 17 w)) := by
  unfold decode
  cases f <;> exact if_pos h

theorem decode_of_tooWide {f : Format} {w : Nat} (h : 2 ^ f.width ≤ w) :
    decode f w = .error .wordTooWide := by
  unfold decode; rw [if_neg (Nat.not_lt.2 h)]

end Sys2Proof
end

