-- ==== Sys2Proof/Laws/Memory.lean ====
section
/-! SUPPORT. The laws of the stream's byte-offset space: read after write, and the canonical form. -/

namespace Sys2Proof.Machine

@[simp] theorem Memory.read_nil (a : Nat) : Memory.read [] a = none := rfl

theorem Memory.read_cons (k a : Nat) (v : Byte) (m : Memory) :
    Memory.read ((k, v) :: m) a = if k = a then some v else Memory.read m a := rfl

/-- A read answers what the last write to its offset put there, and any other offset reads as before. -/
theorem Memory.read_write (m : Memory) (a a' : Nat) (b : Byte) :
    (m.write a b).read a' = if a = a' then some b else m.read a' := by
  induction m with
  | nil => rfl
  | cons c m ih =>
    obtain ⟨k, v⟩ := c
    unfold Memory.write
    split
    · rfl
    · split
      · simp only [Memory.read_cons]; grind
      · simp only [Memory.read_cons, ih]; grind

/-- Every entry of a memory after a write is the new one or an old one. -/
theorem Memory.mem_write {m : Memory} {a : Nat} {b : Byte} {c : Host.Cell} (h : c ∈ m.write a b) :
    c = (a, b) ∨ c ∈ m := by
  induction m with
  | nil => exact .inl (by simpa [Memory.write] using h)
  | cons d m ih =>
    obtain ⟨k, v⟩ := d
    unfold Memory.write at h
    split at h
    · simpa using h
    · split at h
      · simp only [List.mem_cons] at h ⊢; tauto
      · simp only [List.mem_cons] at h ⊢
        rcases h with h | h
        · exact .inr (.inl h)
        · exact (ih h).imp_right .inr

/-- A write keeps the canonical form. -/
theorem Memory.write_wf {m : Memory} (h : m.wf) (a : Nat) (b : Byte) : (m.write a b).wf := by
  induction m with
  | nil => simp [Memory.write]
  | cons d m ih =>
    obtain ⟨k, v⟩ := d
    obtain ⟨hk, hm⟩ := List.pairwise_cons.1 h
    unfold Memory.write
    split
    · rename_i hlt
      refine List.pairwise_cons.2 ⟨fun c hc => ?_, h⟩
      rcases List.mem_cons.1 hc with rfl | hc
      · exact hlt
      · exact hlt.trans (hk c hc)
    · split
      · rename_i heq
        exact List.pairwise_cons.2 ⟨fun c hc => heq ▸ hk c hc, hm⟩
      · refine List.pairwise_cons.2 ⟨fun c hc => ?_, ih hm⟩
        rcases Memory.mem_write hc with rfl | hc
        · simp only; omega
        · exact hk c hc

/-- What a beat's two bytes leave at every offset (R51). -/
theorem Memory.read_storeBeat (m : Memory) (i a : Nat) (d : Word) :
    (m.storeBeat i d).read a =
      if a = 2 * i then some (lane0 d) else if a = 2 * i + 1 then some (lane1 d) else m.read a := by
  simp only [Memory.storeBeat, Memory.read_write, beatOffset]
  grind

theorem Memory.storeBeat_wf {m : Memory} (h : m.wf) (i : Nat) (d : Word) : (m.storeBeat i d).wf :=
  Memory.write_wf (Memory.write_wf h _ _) _ _

@[simp] theorem streamMemory_nil : streamMemory [] = [] := rfl

theorem streamMemory_append (bs : List Beat) (b : Beat) :
    streamMemory (bs ++ [b]) = (streamMemory bs).storeBeat b.index b.data := by
  simp [streamMemory]

/-- The stream's memory has the canonical form, whatever has been transferred. -/
theorem streamMemory_wf (bs : List Beat) : (streamMemory bs).wf := by
  induction bs using List.reverseRecOn with
  | nil => exact List.Pairwise.nil
  | append_singleton bs b ih => exact streamMemory_append bs b ▸ Memory.storeBeat_wf ih _ _

/-- The stream's memory at reset is in canonical form: it lists nothing. -/
theorem streamMemory_resetOf (c : Config) : streamMemory (State.resetOf c).stream = [] := rfl

@[simp] theorem byteStream_nil : byteStream [] = [] := rfl

theorem byteStream_append (bs : List Beat) (b : Beat) :
    byteStream (bs ++ [b]) = byteStream bs ++ [lane0 b.data, lane1 b.data] := by
  simp [byteStream]

theorem byteStream_length (bs : List Beat) : (byteStream bs).length = 2 * bs.length := by
  induction bs with
  | nil => rfl
  | cons b bs ih => simp only [byteStream, List.flatMap_cons, List.length_append] at ih ⊢; simp [ih]; omega

end Sys2Proof.Machine
end

