-- ==== Sys2Proof/Laws/PerInstr.lean ====
section
/-! SUPPORT. One statement per operation about its encoding: its word fits its format, and, for a row of
R87, the word is the row's match under the row's mask. -/

namespace Sys2Proof.Laws.EncodedRow

/-- The encoder writes a word that fits the operation's format, and one its own row takes. -/
def Statement (i : Instr) : Prop :=
  (encode i).wf = true ∧
    match i.cvRow with
    | some r => (encode i).format = .cv6 ∧ BitVec.ofNat 6 (encode i).word = r.matchBits ∧ r.hits r.matchBits = true
    | none => (encode i).format ≠ .cv6

theorem reset : Statement .reset := ⟨rfl, rfl, rfl, rfl⟩
theorem start : Statement .start := ⟨rfl, rfl, rfl, rfl⟩
theorem hold : Statement .hold := ⟨rfl, rfl, rfl, rfl⟩
theorem fetch : Statement .fetch := ⟨rfl, rfl, rfl, rfl⟩
theorem fetchWait : Statement .fetchWait := ⟨rfl, rfl, rfl, rfl⟩
theorem emit : Statement .emit := ⟨rfl, rfl, rfl, rfl⟩
theorem emitWait : Statement .emitWait := ⟨rfl, rfl, rfl, rfl⟩

theorem quantize (r g b : Byte) : Statement (.quantize r g b) :=
  ⟨decide_eq_true (r ++ g ++ b).isLt, nofun⟩

theorem pack565 (r5 : BitVec 5) (g6 : BitVec 6) (b5 : BitVec 5) : Statement (.pack565 r5 g6 b5) :=
  ⟨decide_eq_true (r5 ++ g6 ++ b5).isLt, nofun⟩

theorem bytemux (swap : Bool) (word : Word) : Statement (.bytemux swap word) :=
  ⟨decide_eq_true (BitVec.ofBool swap ++ word).isLt, nofun⟩

end Sys2Proof.Laws.EncodedRow
end

