-- ==== Sys2Proof/Laws/Scan.lean ====
section
/-! SUPPORT. The scan position in exact arithmetic: where no counter wraps, `advance` and `atLast` are what
R148 and R149 say of numbers. -/

namespace Sys2Proof.Machine

theorem toNat_one_of {n : Nat} (h : 1 < 2 ^ n) : (1 : BitVec n).toNat = 1 := Nat.mod_eq_of_lt h

/-- A counter below some value of its width does not wrap (R157). -/
theorem toNat_add_one_of_lt {n : Nat} {p : BitVec n} (h : p.toNat + 1 < 2 ^ n) :
    (p + 1).toNat = p.toNat + 1 := by
  have hn : 1 < 2 ^ n := by omega
  rw [BitVec.toNat_add, toNat_one_of hn, Nat.mod_eq_of_lt h]

/-- `pos == dim - 1` for a dimension of at least 1 (R148). -/
theorem atLast_eq {n : Nat} {pos dim : BitVec n} (h : 1 ≤ dim.toNat) (free : Bool) :
    atLast pos dim free = decide (pos.toNat + 1 = dim.toNat) := by
  have hd := dim.isLt
  have hn : 1 < 2 ^ n := by omega
  have h0 : dim ≠ 0 := by rintro rfl; simp at h
  have hs : (dim - 1).toNat = dim.toNat - 1 := by
    rw [BitVec.toNat_sub, toNat_one_of hn,
      show 2 ^ n - 1 + dim.toNat = dim.toNat - 1 + 2 ^ n by omega, Nat.add_mod_right,
      Nat.mod_eq_of_lt (by omega)]
  rw [atLast, if_neg h0, Bool.eq_iff_iff, beq_iff_eq, decide_eq_true_iff, ← BitVec.toNat_inj, hs]
  omega

/-- `ADVANCE` of a position inside the row (R149). -/
theorem advance_toNat {n : Nat} {w x y : BitVec n} (hx : x.toNat < w.toNat) (hy : y.toNat + 1 < 2 ^ n) :
    ((advance w x y).1.toNat = if x.toNat + 1 < w.toNat then x.toNat + 1 else 0) ∧
      ((advance w x y).2.toNat = if x.toNat + 1 < w.toNat then y.toNat else y.toNat + 1) := by
  have hw := w.isLt
  have hx1 : (x + 1).toNat = x.toNat + 1 := toNat_add_one_of_lt (by omega)
  simp only [advance, BitVec.lt_def, hx1]
  split
  · exact ⟨hx1, rfl⟩
  · exact ⟨rfl, toNat_add_one_of_lt hy⟩

end Sys2Proof.Machine
end

