-- ==== Sys2Proof/Laws/State.lean ====
section
/-! SUPPORT. What each named update of State does to each field. -/

namespace Sys2Proof.Machine

/-! ### `State.clearRegisters` -/

@[simp] theorem State.clearRegisters_conf (s : State) : s.clearRegisters.conf = s.conf := rfl
@[simp] theorem State.clearRegisters_phase (s : State) : s.clearRegisters.phase = .idle := rfl
@[simp] theorem State.clearRegisters_cfgWQ (s : State) : s.clearRegisters.cfgWQ = 0 := rfl
@[simp] theorem State.clearRegisters_cfgHQ (s : State) : s.clearRegisters.cfgHQ = 0 := rfl
@[simp] theorem State.clearRegisters_cfgSwapQ (s : State) : s.clearRegisters.cfgSwapQ = false := rfl
@[simp] theorem State.clearRegisters_x (s : State) : s.clearRegisters.x = 0 := rfl
@[simp] theorem State.clearRegisters_y (s : State) : s.clearRegisters.y = 0 := rfl
@[simp] theorem State.clearRegisters_idx (s : State) : s.clearRegisters.idx = 0 := rfl
@[simp] theorem State.clearRegisters_wreg (s : State) : s.clearRegisters.wreg = 0 := rfl
@[simp] theorem State.clearRegisters_pending (s : State) : s.clearRegisters.pending = s.pending := rfl
@[simp] theorem State.clearRegisters_edges (s : State) : s.clearRegisters.edges = s.edges := rfl
@[simp] theorem State.clearRegisters_earlier (s : State) : s.clearRegisters.earlier = s.earlier := rfl
@[simp] theorem State.clearRegisters_stream (s : State) : s.clearRegisters.stream = s.stream := rfl
@[simp] theorem State.clearRegisters_probe (s : State) : s.clearRegisters.probe = s.probe := rfl

/-! ### `State.openPass` -/

@[simp] theorem State.openPass_conf (s : State) : s.openPass.conf = s.conf := rfl
@[simp] theorem State.openPass_phase (s : State) :
    s.openPass.phase = if s.inp.cfgWidth == 0 || s.inp.cfgHeight == 0 then .done else .fetch := rfl
@[simp] theorem State.openPass_cfgWQ (s : State) : s.openPass.cfgWQ = s.inp.cfgWidth := rfl
@[simp] theorem State.openPass_cfgHQ (s : State) : s.openPass.cfgHQ = s.inp.cfgHeight := rfl
@[simp] theorem State.openPass_cfgSwapQ (s : State) : s.openPass.cfgSwapQ = s.inp.cfgSwap := rfl
@[simp] theorem State.openPass_x (s : State) : s.openPass.x = 0 := rfl
@[simp] theorem State.openPass_y (s : State) : s.openPass.y = 0 := rfl
@[simp] theorem State.openPass_idx (s : State) : s.openPass.idx = 0 := rfl
@[simp] theorem State.openPass_wreg (s : State) : s.openPass.wreg = s.wreg := rfl
@[simp] theorem State.openPass_pending (s : State) : s.openPass.pending = s.pending := rfl
@[simp] theorem State.openPass_edges (s : State) : s.openPass.edges = s.edges := rfl
@[simp] theorem State.openPass_earlier (s : State) : s.openPass.earlier = s.earlier ++ s.stream := rfl
@[simp] theorem State.openPass_stream (s : State) : s.openPass.stream = [] := rfl
@[simp] theorem State.openPass_probe (s : State) : s.openPass.probe = s.probe := rfl

/-! ### `State.holdWord` -/

@[simp] theorem State.holdWord_conf (s : State) (w : Word) : (s.holdWord w).conf = s.conf := rfl
@[simp] theorem State.holdWord_phase (s : State) (w : Word) : (s.holdWord w).phase = .emit := rfl
@[simp] theorem State.holdWord_cfgWQ (s : State) (w : Word) : (s.holdWord w).cfgWQ = s.cfgWQ := rfl
@[simp] theorem State.holdWord_cfgHQ (s : State) (w : Word) : (s.holdWord w).cfgHQ = s.cfgHQ := rfl
@[simp] theorem State.holdWord_cfgSwapQ (s : State) (w : Word) : (s.holdWord w).cfgSwapQ = s.cfgSwapQ := rfl
@[simp] theorem State.holdWord_x (s : State) (w : Word) : (s.holdWord w).x = s.x := rfl
@[simp] theorem State.holdWord_y (s : State) (w : Word) : (s.holdWord w).y = s.y := rfl
@[simp] theorem State.holdWord_idx (s : State) (w : Word) : (s.holdWord w).idx = s.idx := rfl
@[simp] theorem State.holdWord_wreg (s : State) (w : Word) : (s.holdWord w).wreg = w := rfl
@[simp] theorem State.holdWord_pending (s : State) (w : Word) : (s.holdWord w).pending = s.pending := rfl
@[simp] theorem State.holdWord_edges (s : State) (w : Word) : (s.holdWord w).edges = s.edges := rfl
@[simp] theorem State.holdWord_earlier (s : State) (w : Word) : (s.holdWord w).earlier = s.earlier := rfl
@[simp] theorem State.holdWord_stream (s : State) (w : Word) : (s.holdWord w).stream = s.stream := rfl
@[simp] theorem State.holdWord_probe (s : State) (w : Word) : (s.holdWord w).probe = s.probe := rfl

/-! ### `State.transferBeat` -/

@[simp] theorem State.transferBeat_conf (s : State) : s.transferBeat.conf = s.conf := rfl
@[simp] theorem State.transferBeat_phase (s : State) : s.transferBeat.phase = s.phase := rfl
@[simp] theorem State.transferBeat_cfgWQ (s : State) : s.transferBeat.cfgWQ = s.cfgWQ := rfl
@[simp] theorem State.transferBeat_cfgHQ (s : State) : s.transferBeat.cfgHQ = s.cfgHQ := rfl
@[simp] theorem State.transferBeat_cfgSwapQ (s : State) : s.transferBeat.cfgSwapQ = s.cfgSwapQ := rfl
@[simp] theorem State.transferBeat_x (s : State) : s.transferBeat.x = s.x := rfl
@[simp] theorem State.transferBeat_y (s : State) : s.transferBeat.y = s.y := rfl
@[simp] theorem State.transferBeat_idx (s : State) : s.transferBeat.idx = s.idx := rfl
@[simp] theorem State.transferBeat_wreg (s : State) : s.transferBeat.wreg = s.wreg := rfl
@[simp] theorem State.transferBeat_pending (s : State) : s.transferBeat.pending = s.pending := rfl
@[simp] theorem State.transferBeat_edges (s : State) : s.transferBeat.edges = s.edges := rfl
@[simp] theorem State.transferBeat_earlier (s : State) : s.transferBeat.earlier = s.earlier := rfl
@[simp] theorem State.transferBeat_stream (s : State) :
    s.transferBeat.stream = s.stream ++ [⟨s.outIndex.toNat, s.outData⟩] := rfl
@[simp] theorem State.transferBeat_probe (s : State) : s.transferBeat.probe = s.probe := rfl

/-! ### `State.nextPixel` -/

@[simp] theorem State.nextPixel_conf (s : State) : s.nextPixel.conf = s.conf := rfl
@[simp] theorem State.nextPixel_phase (s : State) :
    s.nextPixel.phase = if s.lastPixel then .done else .fetch := rfl
@[simp] theorem State.nextPixel_cfgWQ (s : State) : s.nextPixel.cfgWQ = s.cfgWQ := rfl
@[simp] theorem State.nextPixel_cfgHQ (s : State) : s.nextPixel.cfgHQ = s.cfgHQ := rfl
@[simp] theorem State.nextPixel_cfgSwapQ (s : State) : s.nextPixel.cfgSwapQ = s.cfgSwapQ := rfl
@[simp] theorem State.nextPixel_x (s : State) : s.nextPixel.x = (advance s.cfgWQ s.x s.y).1 := rfl
@[simp] theorem State.nextPixel_y (s : State) : s.nextPixel.y = (advance s.cfgWQ s.x s.y).2 := rfl
@[simp] theorem State.nextPixel_idx (s : State) : s.nextPixel.idx = (s.idx + 1 : BitVec s.conf.idxW) := rfl
@[simp] theorem State.nextPixel_wreg (s : State) : s.nextPixel.wreg = s.wreg := rfl
@[simp] theorem State.nextPixel_pending (s : State) : s.nextPixel.pending = s.pending := rfl
@[simp] theorem State.nextPixel_edges (s : State) : s.nextPixel.edges = s.edges := rfl
@[simp] theorem State.nextPixel_earlier (s : State) : s.nextPixel.earlier = s.earlier := rfl
@[simp] theorem State.nextPixel_stream (s : State) : s.nextPixel.stream = s.stream := rfl
@[simp] theorem State.nextPixel_probe (s : State) : s.nextPixel.probe = s.probe := rfl

/-! ### `State.showResult` -/

@[simp] theorem State.showResult_conf (s : State) (r : DatapathResult) : (s.showResult r).conf = s.conf := rfl
@[simp] theorem State.showResult_phase (s : State) (r : DatapathResult) :
    (s.showResult r).phase = s.phase := rfl
@[simp] theorem State.showResult_cfgWQ (s : State) (r : DatapathResult) :
    (s.showResult r).cfgWQ = s.cfgWQ := rfl
@[simp] theorem State.showResult_cfgHQ (s : State) (r : DatapathResult) :
    (s.showResult r).cfgHQ = s.cfgHQ := rfl
@[simp] theorem State.showResult_cfgSwapQ (s : State) (r : DatapathResult) :
    (s.showResult r).cfgSwapQ = s.cfgSwapQ := rfl
@[simp] theorem State.showResult_x (s : State) (r : DatapathResult) : (s.showResult r).x = s.x := rfl
@[simp] theorem State.showResult_y (s : State) (r : DatapathResult) : (s.showResult r).y = s.y := rfl
@[simp] theorem State.showResult_idx (s : State) (r : DatapathResult) : (s.showResult r).idx = s.idx := rfl
@[simp] theorem State.showResult_wreg (s : State) (r : DatapathResult) : (s.showResult r).wreg = s.wreg := rfl
@[simp] theorem State.showResult_pending (s : State) (r : DatapathResult) :
    (s.showResult r).pending = s.pending := rfl
@[simp] theorem State.showResult_edges (s : State) (r : DatapathResult) :
    (s.showResult r).edges = s.edges := rfl
@[simp] theorem State.showResult_earlier (s : State) (r : DatapathResult) :
    (s.showResult r).earlier = s.earlier := rfl
@[simp] theorem State.showResult_stream (s : State) (r : DatapathResult) :
    (s.showResult r).stream = s.stream := rfl
@[simp] theorem State.showResult_probe (s : State) (r : DatapathResult) :
    (s.showResult r).probe = some r := rfl

/-! ### `State.nextLine` -/

@[simp] theorem State.nextLine_conf (s : State) : s.nextLine.conf = s.conf := rfl
@[simp] theorem State.nextLine_phase (s : State) : s.nextLine.phase = s.phase := rfl
@[simp] theorem State.nextLine_cfgWQ (s : State) : s.nextLine.cfgWQ = s.cfgWQ := rfl
@[simp] theorem State.nextLine_cfgHQ (s : State) : s.nextLine.cfgHQ = s.cfgHQ := rfl
@[simp] theorem State.nextLine_cfgSwapQ (s : State) : s.nextLine.cfgSwapQ = s.cfgSwapQ := rfl
@[simp] theorem State.nextLine_x (s : State) : s.nextLine.x = s.x := rfl
@[simp] theorem State.nextLine_y (s : State) : s.nextLine.y = s.y := rfl
@[simp] theorem State.nextLine_idx (s : State) : s.nextLine.idx = s.idx := rfl
@[simp] theorem State.nextLine_wreg (s : State) : s.nextLine.wreg = s.wreg := rfl
@[simp] theorem State.nextLine_pending (s : State) : s.nextLine.pending = s.pending.tail := rfl
@[simp] theorem State.nextLine_edges (s : State) :
    s.nextLine.edges = if s.atEdge then s.edges + 1 else s.edges := rfl
@[simp] theorem State.nextLine_earlier (s : State) : s.nextLine.earlier = s.earlier := rfl
@[simp] theorem State.nextLine_stream (s : State) : s.nextLine.stream = s.stream := rfl
@[simp] theorem State.nextLine_probe (s : State) : s.nextLine.probe = s.probe := rfl

/-! ### What the registers do not decide: the line, the ports and the outputs after an update -/

@[simp] theorem State.transferBeat_lastPixel (s : State) : s.transferBeat.lastPixel = s.lastPixel := rfl
@[simp] theorem State.clearRegisters_atEdge (s : State) : s.clearRegisters.atEdge = s.atEdge := rfl
@[simp] theorem State.openPass_atEdge (s : State) : s.openPass.atEdge = s.atEdge := rfl
@[simp] theorem State.holdWord_atEdge (s : State) (w : Word) : (s.holdWord w).atEdge = s.atEdge := rfl
@[simp] theorem State.transferBeat_atEdge (s : State) : s.transferBeat.atEdge = s.atEdge := rfl
@[simp] theorem State.nextPixel_atEdge (s : State) : s.nextPixel.atEdge = s.atEdge := rfl
@[simp] theorem State.showResult_atEdge (s : State) (r : DatapathResult) :
    (s.showResult r).atEdge = s.atEdge := rfl

/-! ### What the host offers -/

theorem State.line_of_pending {s : State} {l : Line s.conf} {ls : List (Line s.conf)}
    (h : s.pending = l :: ls) : s.line = l := by
  rw [State.line, h, nextOffer]

theorem State.inp_of_pending {s : State} {i : Inputs s.conf} {ls : List (Line s.conf)}
    (h : s.pending = .edge i :: ls) : s.inp = i := by
  rw [State.inp, State.line_of_pending h, portsOf]

theorem State.atEdge_of_pending {s : State} {i : Inputs s.conf} {ls : List (Line s.conf)}
    (h : s.pending = .edge i :: ls) : s.atEdge = true := by
  rw [State.atEdge, State.line_of_pending h, isEdge]

/-- Past the end of the list the step is an edge whose inputs are free (log entry 2). -/
theorem State.inp_of_empty {s : State} (h : s.pending = []) :
    s.atEdge = true ∧ s.inp = Config.freeInputs s.conf s.edges := by
  rw [State.atEdge, State.inp, State.line, h]
  exact ⟨rfl, rfl⟩

end Sys2Proof.Machine
end

