-- ==== Sys2Proof/Laws/Step.lean ====
section
/-! SUPPORT. What one step can do, said once. -/

namespace Sys2Proof.Machine

@[simp] theorem finishStep_next (t : State) : finishStep (.next t) = .next t.nextLine := rfl

/-- The operation an edge selects, from the ports and the phase (R184). -/
theorem State.fetched_at_edge {s : State} (h : s.atEdge = true) :
    s.fetched =
      if s.inp.rst then .reset
      else match s.phase with
        | .idle | .done => if s.inp.start then .start else .hold
        | .fetch => if s.inp.pixValid then .fetch else .fetchWait
        | .emit => if s.inp.outReady then .emit else .emitWait := by
  have e : s.fetched = decodeCV s.cv := by
    unfold State.fetched
    cases hl : s.line with
    | edge i => rfl
    | datapath d => simp [State.atEdge, isEdge, hl] at h
  refine e.trans ((decodeCV_controlVector _ _ _ _ _).trans ?_)
  cases s.phase <;> rfl

/-- A datapath line offers its own function. -/
theorem State.fetched_of_datapath {s : State} {d : DatapathWord} (h : s.line = .datapath d) :
    s.fetched = d.decode := by
  simp [State.fetched, h]

/-- A datapath input decodes to a datapath function. -/
theorem datapathWord_decode_cases (d : DatapathWord) :
    (∃ r g b, d.decode = .quantize r g b) ∨ (∃ r5 g6 b5, d.decode = .pack565 r5 g6 b5) ∨
      ∃ swap word, d.decode = .bytemux swap word := by
  cases d with
  | pix w => exact .inl ⟨_, _, _, rfl⟩
  | packedWord w => exact .inr (.inl ⟨_, _, _, rfl⟩)
  | beat w => exact .inr (.inr ⟨_, _, rfl⟩)

/-- A control operation is fetched at an edge alone. -/
theorem State.atEdge_of_cvRow {s : State} {r : CvRow} (h : s.fetched.cvRow = some r) :
    s.atEdge = true := by
  cases hl : s.line with
  | edge i => simp [State.atEdge, isEdge, hl]
  | datapath d =>
    rw [State.fetched_of_datapath hl] at h
    obtain ⟨_, _, _, e⟩ | ⟨_, _, _, e⟩ | ⟨_, _, e⟩ := datapathWord_decode_cases d <;> rw [e] at h <;> cases h

theorem step_of_fetched {s : State} {i : Instr} (h : s.fetched = i) : step s = finishStep (exec i s) :=
  h ▸ rfl

/-- Everything a step can do: the operation selected, and the state it leaves. -/
theorem step_cases {s t : State} (h : step s = .next t) :
    (s.fetched = .reset ∧ t = s.clearRegisters.nextLine) ∨
    (s.fetched = .start ∧ t = s.openPass.nextLine) ∨
    ((s.fetched = .hold ∨ s.fetched = .fetchWait ∨ s.fetched = .emitWait) ∧ t = s.nextLine) ∨
    (s.fetched = .fetch ∧ t = (s.holdWord (pack1 s.inp.pixR s.inp.pixG s.inp.pixB)).nextLine) ∨
    (s.fetched = .emit ∧ t = s.transferBeat.nextPixel.nextLine) ∨
    (s.atEdge = false ∧ ∃ r, t = (s.showResult r).nextLine) := by
  have off : (∀ r, s.fetched.cvRow ≠ some r) → s.atEdge = false := fun hn => by
    cases hl : s.line with
    | datapath d => simp [State.atEdge, isEdge, hl]
    | edge i =>
      have he : s.atEdge = true := by simp [State.atEdge, isEdge, hl]
      rw [State.fetched_at_edge he] at hn
      exfalso
      revert hn
      split
      · exact fun hn => hn _ rfl
      · split <;> split <;> exact fun hn => hn _ rfl
  cases hf : s.fetched with
  | reset => rw [step_of_fetched hf] at h; cases h; exact .inl ⟨rfl, rfl⟩
  | start => rw [step_of_fetched hf] at h; cases h; exact .inr (.inl ⟨rfl, rfl⟩)
  | hold => rw [step_of_fetched hf] at h; cases h; exact .inr (.inr (.inl ⟨.inl rfl, rfl⟩))
  | fetchWait => rw [step_of_fetched hf] at h; cases h; exact .inr (.inr (.inl ⟨.inr (.inl rfl), rfl⟩))
  | emitWait => rw [step_of_fetched hf] at h; cases h; exact .inr (.inr (.inl ⟨.inr (.inr rfl), rfl⟩))
  | fetch => rw [step_of_fetched hf] at h; cases h; exact .inr (.inr (.inr (.inl ⟨rfl, rfl⟩)))
  | emit => rw [step_of_fetched hf] at h; cases h; exact .inr (.inr (.inr (.inr (.inl ⟨rfl, rfl⟩))))
  | quantize r g b =>
    rw [step_of_fetched hf] at h; cases h
    exact .inr (.inr (.inr (.inr (.inr ⟨off (by simp [hf, Instr.cvRow]), _, rfl⟩))))
  | pack565 r5 g6 b5 =>
    rw [step_of_fetched hf] at h; cases h
    exact .inr (.inr (.inr (.inr (.inr ⟨off (by simp [hf, Instr.cvRow]), _, rfl⟩))))
  | bytemux swap word =>
    rw [step_of_fetched hf] at h; cases h
    exact .inr (.inr (.inr (.inr (.inr ⟨off (by simp [hf, Instr.cvRow]), _, rfl⟩))))

end Sys2Proof.Machine
end

