-- ==== Sys2Proof/Tests/Slice0.lean ====
section
/-! SUPPORT. Tests, each on fixed values whose expected result is taken from the spec (the vector or rule is
named), and a witness for every statement that has hypotheses. -/

namespace Sys2Proof.Tests

open Sys2Proof.Machine Sys2Proof.Safety

/-! ## Helpers -/

/-- Ports at an edge, in the notation of the vectors of `95_test_vectors.md` 2.3; unlisted inputs are 0. -/
def ports (rst start pv rdy : Bool := false) (w h : BitVec 4 := 0) (sw : Bool := false)
    (r g b a : Byte := 0) : Inputs Config.ofVectors :=
  ⟨rst, start, w, h, sw, pv, r, g, b, a, rdy⟩

/-- The state `phase W H swap x y idx wreg` of the vectors (DIM_W = 4), with these ports at the next edge. -/
def before (p : Phase) (w h : BitVec 4) (sw : Bool) (x y : BitVec 4) (idx : BitVec 8) (wreg : Word)
    (i : Inputs Config.ofVectors) : State :=
  { State.resetOf Config.ofVectors with
    phase := p, cfgWQ := w, cfgHQ := h, cfgSwapQ := sw, x := x, y := y, idx := idx, wreg := wreg
    pending := [.edge i] }

/-- The state of a vector after the edge, with the beats transferred at it. -/
def after (p : Phase) (w h : BitVec 4) (sw : Bool) (x y : BitVec 4) (idx : BitVec 8) (wreg : Word)
    (beats : List Beat) : State :=
  { State.resetOf Config.ofVectors with
    phase := p, cfgWQ := w, cfgHQ := h, cfgSwapQ := sw, x := x, y := y, idx := idx, wreg := wreg
    edges := 1, stream := beats }

/-- The next state, where a step has one. -/
def nextOf : Host.Outcome State Fault Refusal → Option State
  | .next t => some t
  | .fault _ => none
  | .refused _ => none

theorem eq_next_of_nextOf {o : Host.Outcome State Fault Refusal} {t : State} (h : nextOf o = some t) :
    o = .next t := by
  cases o with
  | next s => exact congrArg _ (Option.some.inj h)
  | fault f => cases h
  | refused r => cases h

/-- The step from a reset state offered a table word goes on. -/
def runsFromReset (nbits w : Nat) : Bool := (nextOf (step (State.reset.withFetchWord nbits w))).isSome

/-! ## WellFormed: an ill-formed term for each check -/

theorem test_wf_cv_too_wide : (⟨.cv6, 0b1000000⟩ : Encoded).wf = false := by decide
theorem test_wf_pix_too_wide : (⟨.pix, 0x1000000⟩ : Encoded).wf = false := by decide
theorem test_wf_packed_too_wide : (⟨.packedWord, 0x10000⟩ : Encoded).wf = false := by decide
theorem test_wf_beat_too_wide : (⟨.beat, 0x20000⟩ : Encoded).wf = false := by decide
theorem test_wf_start_width : (StimLine.wf Config.ofVectors ⟨.start 16 1 0, false, false⟩) = false := by decide
theorem test_wf_start_height : (StimLine.wf Config.ofVectors ⟨.start 1 16 0, false, false⟩) = false := by decide
theorem test_wf_start_swap : (StimLine.wf Config.ofVectors ⟨.start 1 1 2, false, false⟩) = false := by decide

/-! ## Decode: words written out from R80, R81, R113 and R116 (the CVs of C1 to C18) -/

theorem test_decode_reset : decode .cv6 0b111111 = .ok .reset := by rfl
theorem test_decode_start : decode .cv6 0b010001 = .ok .start := by rfl
theorem test_decode_hold : decode .cv6 0b001101 = .ok .hold := by rfl
theorem test_decode_fetch : decode .cv6 0b011110 = .ok .fetch := by rfl
theorem test_decode_fetchWait : decode .cv6 0b010010 = .ok .fetchWait := by rfl
theorem test_decode_emit : decode .cv6 0b010111 = .ok .emit := by rfl
theorem test_decode_emitWait : decode .cv6 0b011011 = .ok .emitWait := by rfl
/-- PIX = {R, G, B} of vector Q12. -/
theorem test_decode_quantize : decode .pix 0x123456 = .ok (.quantize 0x12 0x34 0x56) := by rfl
/-- `RRRRRGGGGGGBBBBB` of Q12: 00010 001101 01010. -/
theorem test_decode_pack565 : decode .packedWord 0b0001000110101010 = .ok (.pack565 2 13 10) := by rfl
/-- `sHHHHHHHHLLLLLLLL` of B2: 1 10101011 11001101. -/
theorem test_decode_bytemux : decode .beat 0b11010101111001101 = .ok (.bytemux true 0xABCD) := by rfl
theorem test_decode_rejects_wide_cv : decode .cv6 0b1000000 = .error .wordTooWide := by rfl

/-! ## One step of each operation (vectors C1 to C18, Q12, B2 of `95_test_vectors.md`) -/

/-- C1: RESET wins over every input; no beat at the reset edge. -/
theorem test_step_reset :
    nextOf (step (before .emit 2 1 false 1 0 1 0x07E0 (ports true true true true))) =
      some (after .idle 0 0 false 0 0 0 0x0000 []) := by decide
/-- C5: START from DONE restarts the counters; `wreg` is untouched. -/
theorem test_step_start :
    nextOf (step (before .done 2 1 false 0 1 2 0x07E0 (ports (start := true) (w := 1) (h := 1) (sw := true)))) =
      some (after .fetch 1 1 true 0 0 0 0x07E0 []) := by decide
/-- C3: START with W = 0 goes to DONE. -/
theorem test_step_start_empty :
    nextOf (step (before .idle 0 0 false 0 0 0 0x1234 (ports (start := true) (h := 5)))) =
      some (after .done 0 5 false 0 0 0 0x1234 []) := by decide
/-- C6: HOLD ignores pv and rdy. -/
theorem test_step_hold :
    nextOf (step (before .done 2 1 false 0 1 2 0x07E0 (ports (pv := true) (rdy := true)))) =
      some (after .done 2 1 false 0 1 2 0x07E0 []) := by decide
/-- C9: FETCH captures and packs. -/
theorem test_step_fetch :
    nextOf (step (before .fetch 3 2 true 0 0 0 0 (ports (pv := true) (r := 0x80) (g := 0x80) (b := 0x80)))) =
      some (after .emit 3 2 true 0 0 0 0x8410 []) := by decide
/-- C10: FETCH ignores start, rdy and alpha. -/
theorem test_step_fetch_ignores :
    nextOf (step (before .fetch 3 2 true 2 1 5 0
      (ports (start := true) (pv := true) (rdy := true) (r := 0xFF) (g := 0xFF) (b := 0xFF) (a := 0x55)))) =
      some (after .emit 3 2 true 2 1 5 0xFFFF []) := by decide
/-- C8: start while busy is ignored: FETCH_WAIT. -/
theorem test_step_fetchWait :
    nextOf (step (before .fetch 3 2 true 0 0 0 0 (ports (start := true) (w := 7) (h := 7)))) =
      some (after .fetch 3 2 true 0 0 0 0 []) := by decide
/-- C12: EMIT at the end of a row goes to the next row; swap 1 puts 10 84 on the lanes. -/
theorem test_step_emit_row_end :
    nextOf (step (before .emit 3 2 true 2 0 2 0x8410 (ports (rdy := true)))) =
      some (after .fetch 3 2 true 0 1 3 0x8410 [⟨2, 0x1084⟩]) := by decide
/-- C15: the last pixel of the largest image for DIM_W = 4. -/
theorem test_step_emit_last :
    nextOf (step (before .emit 15 15 false 14 14 224 0xF800 (ports (rdy := true)))) =
      some (after .done 15 15 false 0 15 225 0xF800 [⟨224, 0xF800⟩]) := by decide
/-- C16: EMIT_WAIT holds the beat. -/
theorem test_step_emitWait :
    nextOf (step (before .emit 3 2 true 1 0 1 0x8410 (ports (start := true) (pv := true)))) =
      some (after .emit 3 2 true 1 0 1 0x8410 []) := by decide

/-- Q12, Q11: QUANTIZE. -/
theorem test_quantize : quantize 0x12 0x34 0x56 = (2, 13, 10) ∧ quantize 0x7F 0x7F 0x7F = (15, 31, 15) := by decide
/-- Q15: PACK565. -/
theorem test_pack565 : pack565 21 51 29 = 0xAE7D ∧ pack1 0xAB 0xCD 0xEF = 0xAE7D := by decide
/-- B1, B2: BYTEMUX; the stream bytes of B2 are AB, CD. -/
theorem test_bytemux : bytemux 0xABCD false = 0xABCD ∧ bytemux 0xABCD true = 0xCDAB := by decide
theorem test_bytemux_lanes : byteStream [⟨0, bytemux 0xABCD true⟩] = [0xAB, 0xCD] := by decide

/-- B8's word through a datapath line: the result is shown and no edge is counted (log entry 5). -/
theorem test_step_datapath_line :
    (nextOf (step { State.reset with pending := [.datapath (.beat 0x111AA)] })).map
      (fun t => (t.probe, t.edges, t.phase)) = some (some (.beat 0xAA11), 0, .idle) := by decide

/-- P1, edges 3 and 5: the two beats' bytes are 00 F8 E0 07, at offsets 0 to 3. -/
theorem test_stream_bytes :
    streamMemory [⟨0, 0xF800⟩, ⟨1, 0x07E0⟩] = [(0, 0x00), (1, 0xF8), (2, 0xE0), (3, 0x07)] := by decide

/-- P2, edge 3: the host nibble of `START 2,2,1 +pv` is 0110 (R92). -/
theorem test_nibble : StimLine.nibble ⟨.start 2 2 1, true, false⟩ = 0b0110 := by decide

/-! ## Every row of the table runs as the first operation after reset -/

theorem test_table_reset : decodeTableWord 8 0b100000 = some .reset ∧ runsFromReset 8 0b100000 = true := by decide
theorem test_table_start : decodeTableWord 8 0b010000 = some .start ∧ runsFromReset 8 0b010000 = true := by decide
theorem test_table_hold : decodeTableWord 8 0b000000 = some .hold ∧ runsFromReset 8 0b000000 = true := by decide
theorem test_table_fetch : decodeTableWord 8 0b001010 = some .fetch ∧ runsFromReset 8 0b001010 = true := by decide
theorem test_table_fetchWait :
    decodeTableWord 8 0b000010 = some .fetchWait ∧ runsFromReset 8 0b000010 = true := by decide
theorem test_table_emit : decodeTableWord 8 0b000111 = some .emit ∧ runsFromReset 8 0b000111 = true := by decide
theorem test_table_emitWait :
    decodeTableWord 8 0b000011 = some .emitWait ∧ runsFromReset 8 0b000011 = true := by decide
theorem test_table_quantize :
    decodeTableWord 24 0x123456 = some (.quantize 0x12 0x34 0x56) ∧ runsFromReset 24 0x123456 = true := by decide
theorem test_table_pack565 :
    decodeTableWord 16 0x11AA = some (.pack565 2 13 10) ∧ runsFromReset 16 0x11AA = true := by decide
theorem test_table_bytemux :
    decodeTableWord 24 0x1ABCD = some (.bytemux true 0xABCD) ∧ runsFromReset 24 0x1ABCD = true := by decide

/-! ## Witnesses: the hypotheses of each statement are met, each clause at a boundary -/

/-- C1's state. -/
def sC1 : State := before .emit 2 1 false 1 0 1 0x07E0 (ports true true true true)
/-- C2's state, START of a 3 x 2 image. -/
def sC2 : State := before .idle 0 0 false 0 0 0 0 (ports (start := true) (w := 3) (h := 2) (sw := true))
/-- C3's and C4's states, a zero width and a zero height. -/
def sC3 : State := before .idle 0 0 false 0 0 0 0x1234 (ports (start := true) (h := 5))
def sC4 : State := before .idle 0 0 false 0 0 0 0 (ports (start := true) (w := 4) (sw := true))
def sC5 : State := before .done 2 1 false 0 1 2 0x07E0 (ports (start := true) (w := 1) (h := 1) (sw := true))
def sC6 : State := before .done 2 1 false 0 1 2 0x07E0 (ports (pv := true) (rdy := true))
def sC7 : State := before .idle 0 0 false 0 0 0 0 (ports)
def sC8 : State := before .fetch 3 2 true 0 0 0 0 (ports (start := true) (w := 7) (h := 7))
def sC10 : State := before .fetch 3 2 true 2 1 5 0
  (ports (start := true) (pv := true) (rdy := true) (r := 0xFF) (g := 0xFF) (b := 0xFF) (a := 0x55))
def sC11 : State := before .emit 3 2 true 0 0 0 0x8410 (ports (rdy := true))
def sC13 : State := before .emit 3 2 true 2 1 5 0xFFFF (ports (start := true) (rdy := true))
def sC15 : State := before .emit 15 15 false 14 14 224 0xF800 (ports (rdy := true))
def sC16 : State := before .emit 3 2 true 1 0 1 0x8410 (ports (start := true) (pv := true))
def sDatapath : State := { State.reset with pending := [.datapath (.pix 0xFFFFFF)] }
/-- A pass over a black 1 x 1 image, waiting for its pixel, and the same pass done. -/
def black : Image := fun _ _ => ⟨0, 0, 0, 0⟩
def sBlack : State := before .fetch 1 1 false 0 0 0 0 (ports (pv := true))
def sBlackDone : State := after .done 1 1 false 0 1 1 0 [⟨0, 0⟩]
/-- In EMIT with a beat already transferred and a reset coming: P4 at edge 5. -/
def sP4 : State :=
  { before .emit 3 1 false 1 0 1 0x428C (ports (rst := true) (pv := true) (rdy := true)) with
    stream := [⟨0, 0x1106⟩] }
def imgP4 : Image := fun x _ => if x = 0 then ⟨0x10, 0x20, 0x30, 0⟩ else ⟨0x40, 0x50, 0x60, 0⟩

theorem witness_ResetForcesTheResetValues : sC1.atEdge = true ∧ sC1.inp.rst = true := by decide

theorem witness_ResetDuringPassAbandonsIt :
    sP4.busy = true ∧ sP4.atEdge = true ∧ sP4.inp.rst = true ∧ (nextOf (step sP4)).isSome = true ∧
      PassInv imgP4 sP4 := by decide

theorem witness_EdgePerformsTheMatchingOperation :
    sC11.atEdge = true ∧ Instr.emit.selectedBy sC11.cv = true ∧ (nextOf (exec .emit sC11)).isSome = true := by
  decide

theorem witness_InputPriorityAtAnEdge :
    sC1.atEdge = true ∧ sC1.inp.rst = true ∧
    (sC2.atEdge = true ∧ sC2.inp.rst = false ∧ sC2.phase = .idle) ∧
    (sC6.atEdge = true ∧ sC6.inp.rst = false ∧ sC6.phase = .done) ∧
    (sC8.atEdge = true ∧ sC8.inp.rst = false ∧ sC8.phase = .fetch) ∧
    (sC11.atEdge = true ∧ sC11.inp.rst = false ∧ sC11.phase = .emit) := by decide

theorem witness_WordsHaveOneMeaning :
    decode .pix 0xFFFFFF = .ok (.quantize 0xFF 0xFF 0xFF) ∧ Format.pix ≠ .cv6 ∧
      decode .cv6 0b111111 = .ok .reset := ⟨rfl, nofun, rfl⟩

theorem witness_EveryFittingWordIsAnOperation :
    0b111111 < 2 ^ Format.cv6.width ∧ 2 ^ Format.cv6.width ≤ 0b1000000 := by decide

theorem witness_StepRunsTheFetchedOperation :
    sC13.fetched = .emit ∧ (nextOf (exec .emit sC13)).isSome = true := by decide

theorem witness_OfferedTableWordRunsNext :
    decodeTableWord 8 0b111111 = some .reset ∧ decodeTableWord 24 0xFFFFFF = some (.quantize 0xFF 0xFF 0xFF) ∧
      decodeTableWord 16 0xFFFF = some (.pack565 31 63 31) ∧
      decodeTableWord 24 0x1FFFF = some (.bytemux true 0xFFFF) := by decide

theorem witness_DatapathLineWritesNoRegister : sDatapath.line = .datapath (.pix 0xFFFFFF) := by decide

theorem witness_StartLatchesAndOpensAPass :
    sC2.atEdge = true ∧ sC2.inp.rst = false ∧ sC2.inp.start = true ∧ sC2.phase = .idle ∧
      sC5.atEdge = true ∧ sC5.inp.rst = false ∧ sC5.inp.start = true ∧ sC5.phase = .done := by decide

theorem witness_ZeroDimensionMakesAnEmptyPass :
    (sC3.fetched = .start ∧ sC3.inp.cfgWidth = 0) ∧ (sC4.fetched = .start ∧ sC4.inp.cfgHeight = 0) := by decide

theorem witness_WaitsWriteNothing :
    sC6.atEdge = true ∧ sC6.fetched = .hold ∧ sC7.fetched = .hold ∧ sC8.atEdge = true ∧
      sC8.fetched = .fetchWait ∧ sC16.atEdge = true ∧ sC16.fetched = .emitWait := by decide

theorem witness_FetchHoldsThePackedPixel : sC10.atEdge = true ∧ sC10.fetched = .fetch := by decide

theorem witness_EmitCompletesInEveryState : sC15.cfgWQ ≠ 0 ∧ sC15.cfgHQ ≠ 0 := by decide

theorem witness_EmitTransfersAndAdvances :
    sC15.atEdge = true ∧ sC15.fetched = .emit ∧ InsideImage sC15 ∧ InsideImage sC11 := by decide

/-- RESET changes every register of a state in which none is at its reset value. -/
theorem witness_OnlyTheListedOperationsWrite :
    (nextOf (exec .reset (before .emit 3 2 true 2 1 5 0x8410 (ports)))).any (fun t =>
      t.phase != .emit && t.cfgWQ.toNat != 3 && t.cfgHQ.toNat != 2 && t.cfgSwapQ != true && t.x.toNat != 2 &&
        t.y.toNat != 1 && t.idx.toNat != 5 && t.wreg != 0x8410) = true ∧
    (nextOf (exec (.quantize 1 2 3) sC7)).any (fun t => t.probe != sC7.probe) = true := by decide

theorem witness_StreamBytesWrittenByEmitAlone :
    (nextOf (exec .emit sC11)).isSome = true ∧ (nextOf (exec .emit sC15)).isSome = true ∧
      (nextOf (exec .hold sC6)).isSome = true ∧ (nextOf (exec .start sC5)).isSome = true := by decide

theorem witness_StartIsIgnoredWhileBusy :
    (sC8.busy = true ∧ (nextOf (step sC8)).isSome = true ∧ sC8.fetched ≠ .reset) ∧
      (sC16.busy = true ∧ (nextOf (step sC16)).isSome = true ∧ sC16.fetched ≠ .reset) := by decide

/-- In each phase two port values that differ and agree where the phase reads them. -/
theorem witness_UnreadInputsHaveNoEffect :
    AgreeWhereRead .idle (ports (pv := true)) (ports (rdy := true) (w := 15)) ∧
      AgreeWhereRead .done (ports (start := true) (w := 15)) (ports (start := true) (w := 15) (a := 1)) ∧
      AgreeWhereRead .fetch (ports (pv := true) (r := 1)) (ports (start := true) (pv := true) (r := 1)) ∧
      AgreeWhereRead .emit (ports (rdy := true)) (ports (start := true) (pv := true) (rdy := true)) :=
  ⟨⟨rfl, fun _ => ⟨rfl, nofun⟩⟩, ⟨rfl, fun _ => ⟨rfl, fun _ => ⟨rfl, rfl, rfl⟩⟩⟩,
    ⟨rfl, fun _ => ⟨rfl, fun _ => ⟨rfl, rfl, rfl⟩⟩⟩, ⟨rfl, fun _ => rfl⟩⟩

theorem witness_OfferedBeatIsStable :
    sC16.outValid = true ∧ sC16.fetched ≠ .emit ∧ sC16.fetched ≠ .reset ∧ (nextOf (step sC16)).isSome = true := by
  decide

theorem witness_HeldStartRunsAgain :
    sC5.atEdge = true ∧ sC5.inp.rst = false ∧ sC5.inp.start = true ∧ sC5.done = true ∧
      sC5.inp.cfgWidth ≠ 0 ∧ sC5.inp.cfgHeight ≠ 0 := by decide

theorem witness_UnansweredHandshakeHangs :
    (sC8.pending = [ports (start := true) (w := 7) (h := 7)].map Line.edge ++ [] ∧ sC8.phase = .fetch ∧
      ∀ i ∈ [ports (start := true) (w := 7) (h := 7)], i.rst = false ∧ i.pixValid = false) ∧
    (sC16.pending = [ports (start := true) (pv := true)].map Line.edge ++ [] ∧ sC16.phase = .emit ∧
      ∀ i ∈ [ports (start := true) (pv := true)], i.rst = false ∧ i.outReady = false) := by decide

theorem sC5_inv : PositionInv sC5 := ⟨by decide, by decide, by decide⟩
theorem sC10_inv : PositionInv sC10 := ⟨by decide, by decide, by decide⟩
theorem sC11_inv : PositionInv sC11 := ⟨by decide, by decide, by decide⟩
theorem sC13_inv : PositionInv sC13 := ⟨by decide, by decide, by decide⟩
theorem sC15_inv : PositionInv sC15 := ⟨by decide, by decide, by decide⟩
theorem sBlack_inv : PositionInv sBlack := ⟨by decide, by decide, by decide⟩

theorem witness_StepKeepsPositionInvariant :
    (PositionInv sC13 ∧ (nextOf (step sC13)).isSome = true) ∧
      (PositionInv sC5 ∧ (nextOf (step sC5)).isSome = true) :=
  ⟨⟨sC13_inv, by decide⟩, ⟨sC5_inv, by decide⟩⟩

theorem witness_LaunchedStatesMeetPositionInvariant :
    Launched (after .idle 0 0 false 0 0 0 0x0000 []) :=
  .afterReset sC1 _ (by decide) (eq_next_of_nextOf (by decide))

theorem witness_NoCounterOverflows : InsideImage sC15 := by decide

theorem witness_RequestIsThePixelOfTheIndex :
    (PositionInv sC10 ∧ sC10.pixReq = true) ∧ (PositionInv sC15 ∧ sC15.outValid = true) :=
  ⟨⟨sC10_inv, by decide⟩, ⟨sC15_inv, by decide⟩⟩

theorem witness_OnePixelInTheBlockAtATime :
    (PositionInv sC10 ∧ sC10.phase ≠ .emit ∧ (nextOf (step sC10)).any (fun t => t.phase == .emit) = true) ∧
    (PositionInv sC15 ∧ sC15.phase = .emit ∧ sC15.fetched ≠ .reset ∧
      (nextOf (step sC15)).any (fun t => t.phase == .done) = true) ∧
    (PositionInv sC11 ∧ sC11.phase = .emit ∧ sC11.fetched ≠ .reset ∧
      (nextOf (step sC11)).any (fun t => t.phase == .fetch) = true) :=
  ⟨⟨sC10_inv, by decide, by decide⟩, ⟨sC15_inv, by decide, by decide, by decide⟩,
    ⟨sC11_inv, by decide, by decide, by decide⟩⟩

theorem witness_StartOpensAPassOverAnyImage :
    sC2.fetched = .start ∧ (nextOf (step sC2)).isSome = true := by decide

theorem witness_StepKeepsPassInvariant :
    PositionInv sBlack ∧ PassInv black sBlack ∧ sBlack.atEdge = true ∧ HostShows black sBlack ∧
      sBlack.pixReq = true ∧ sBlack.inp.pixValid = true ∧ (nextOf (step sBlack)).isSome = true :=
  ⟨sBlack_inv, by decide, by decide, by decide, by decide, by decide, by decide⟩

theorem witness_DoneMeansTheStreamIsComplete :
    PositionInv sBlackDone ∧ PassInv black sBlackDone ∧ sBlackDone.done = true := by decide

theorem witness_StreamBytesAreThoseOfTheImage :
    (0 < 2 * 1 ∧ 1 < 2 * 1) ∧ 2 * 1 ≤ 2 ∧ streamByte black 1 true 1 = 0 := by decide

/-- One pixel served after one wait at each handshake. -/
def serveBlack : Service Config.ofVectors :=
  ⟨[ports (start := true)], ports (pv := true) (a := 7), [ports (pv := true)], ports (rdy := true)⟩

theorem serveBlack_serves : serveBlack.serves ⟨0, 0, 0, 0⟩ := by
  unfold Service.serves
  decide

/-- The START of a 1 x 1 image, and the state whose host then serves it. -/
def startOne : Inputs Config.ofVectors := ports (start := true) (w := 1) (h := 1)
def sServed : State :=
  { State.resetOf Config.ofVectors with
    pending := (startOne :: [serveBlack].flatMap Service.inputs).map Line.edge ++ [] }

theorem witness_PassContract :
    sServed.busy = false ∧ startOne.rst = false ∧ startOne.start = true ∧
      ServesPass black startOne.cfgWidth.toNat (startOne.cfgWidth.toNat * startOne.cfgHeight.toNat) [serveBlack] ∧
      sServed.pending = (startOne :: [serveBlack].flatMap Service.inputs).map Line.edge ++ [] := by
  refine ⟨by decide, rfl, rfl, ⟨rfl, fun k h => ?_⟩, rfl⟩
  obtain rfl : k = 0 := by simpa using h
  exact serveBlack_serves

/-- The empty pass meets the premises too. -/
theorem witness_PassContract_empty :
    ServesPass black 0 (0 * 5) ([] : List (Service Config.ofVectors)) := ⟨rfl, nofun⟩

/-- The host of the continuous 1 x 1 pass. -/
def ready : Inputs Config.ofVectors := ports (pv := true) (rdy := true)
def sReady : State :=
  { State.resetOf Config.ofVectors with pending := (startOne :: [ready, ready]).map Line.edge ++ [] }

theorem witness_ContinuousServiceTiming :
    sReady.busy = false ∧ startOne.rst = false ∧ startOne.start = true ∧
      (∀ j ∈ [ready, ready], j.rst = false ∧ j.pixValid = true ∧ j.outReady = true) ∧
      [ready, ready].length = 2 * startOne.cfgWidth.toNat * startOne.cfgHeight.toNat ∧
      sReady.pending = (startOne :: [ready, ready]).map Line.edge ++ [] ∧
      0 < startOne.cfgWidth.toNat * startOne.cfgHeight.toNat := by decide

theorem witness_PassNotationRunsAWholePass :
    State.reset.busy = false ∧ (∀ ln ∈ StimLine.pass 2 1 1, StimLine.wf State.reset.conf ln = true) ∧
      StimOp.wf State.reset.conf (.start 15 15 1) = true := by decide

end Sys2Proof.Tests
end

section
/-! PROOFS. The scope's statement about the output stream (`00_scope.md` R17): what START does with it. -/

namespace Sys2Proof.Machine

/-- START has one outcome, and from every state: the pass is opened (R142). -/
theorem exec_start (s : State) : exec .start s = .next s.openPass := rfl

/-- While no beat of the current stream has been transferred, no byte offset holds anything (R35). -/
theorem State.readByte_of_stream_nil {s : State} (h : s.stream = []) (a : Nat) : s.readByte a = none := by
  rw [State.readByte, h, streamMemory_nil, Memory.read_nil]

/-- Settles O23: `openPass` empties the stream, so the space of its bytes is empty too, and appends the
finished stream to the beats kept before it. -/
theorem startBeginsANewStream : Obligations.StartBeginsANewStream := by
  intro s
  have hempty : s.openPass.stream = [] := s.openPass_stream
  exact ⟨s.openPass, exec_start s, hempty, s.openPass_earlier, State.readByte_of_stream_nil hempty⟩

end Sys2Proof.Machine
end

section
/-! PROOFS. The statements of `10_state.md`: which registers and stream bytes an operation writes, and what
the output ports read. -/

namespace Sys2Proof.Machine

open Sys2Proof.Safety

/-! ### What one operation can do -/

theorem exec_reset (s : State) : exec .reset s = .next s.clearRegisters := rfl

/-- Everything `exec` can do: the operation's named update, for every operation and state. -/
theorem exec_cases {i : Instr} {s t : State} (h : exec i s = .next t) :
    (i = .reset ∧ t = s.clearRegisters) ∨
    (i = .start ∧ t = s.openPass) ∨
    ((i = .hold ∨ i = .fetchWait ∨ i = .emitWait) ∧ t = s) ∨
    (i = .fetch ∧ t = s.holdWord (pack1 s.inp.pixR s.inp.pixG s.inp.pixB)) ∨
    (i = .emit ∧ t = s.transferBeat.nextPixel) ∨
    (i.cvRow = none ∧ ∃ r, t = s.showResult r) := by
  cases i with
  | reset => cases h; exact .inl ⟨rfl, rfl⟩
  | start => cases h; exact .inr (.inl ⟨rfl, rfl⟩)
  | hold => cases h; exact .inr (.inr (.inl ⟨.inl rfl, rfl⟩))
  | fetchWait => cases h; exact .inr (.inr (.inl ⟨.inr (.inl rfl), rfl⟩))
  | emitWait => cases h; exact .inr (.inr (.inl ⟨.inr (.inr rfl), rfl⟩))
  | fetch => cases h; exact .inr (.inr (.inr (.inl ⟨rfl, rfl⟩)))
  | emit => cases h; exact .inr (.inr (.inr (.inr (.inl ⟨rfl, rfl⟩))))
  | quantize r g b => cases h; exact .inr (.inr (.inr (.inr (.inr ⟨rfl, _, rfl⟩))))
  | pack565 r5 g6 b5 => cases h; exact .inr (.inr (.inr (.inr (.inr ⟨rfl, _, rfl⟩))))
  | bytemux swap word => cases h; exact .inr (.inr (.inr (.inr (.inr ⟨rfl, _, rfl⟩))))

/-! ### Registers (R21) -/

/-- Settles O29: in each case of `exec_cases` a register either keeps its value by the update's own
equation, or the operation is one R21 lists for it. -/
theorem onlyTheListedOperationsWrite : Obligations.OnlyTheListedOperationsWrite := by
  intro i s t h
  obtain ⟨hi, rfl⟩ | ⟨hi, rfl⟩ | ⟨-, rfl⟩ | ⟨hi, rfl⟩ | ⟨hi, rfl⟩ | ⟨hi, r, rfl⟩ := exec_cases h
  · simp [hi]
  · simp [hi]
  · simp
  · simp [hi]
  · simp [hi]
  · simp [hi]

/-! ### The stream's bytes (R35, R51) -/

/-- The bytes of a state are those of its stream. -/
theorem State.readByte_congr {s t : State} (h : t.stream = s.stream) (a : Nat) :
    t.readByte a = s.readByte a := by
  rw [State.readByte, State.readByte, h]

/-- What EMIT leaves at every byte offset: the two lanes of the beat it transfers, and the byte that was
there elsewhere. -/
theorem State.readByte_emit (s : State) (a : Nat) :
    s.transferBeat.nextPixel.readByte a =
      if a = 2 * s.outIndex.toNat then some (lane0 s.outData)
      else if a = 2 * s.outIndex.toNat + 1 then some (lane1 s.outData) else s.readByte a := by
  simp only [State.readByte, State.nextPixel_stream, State.transferBeat_stream, streamMemory_append,
    Memory.read_storeBeat]

/-- An operation other than START keeps the beats of earlier passes. -/
theorem earlier_of_exec {i : Instr} {s t : State} (h : exec i s = .next t) (hi : i ≠ .start) :
    t.earlier = s.earlier := by
  obtain ⟨-, rfl⟩ | ⟨hs, -⟩ | ⟨-, rfl⟩ | ⟨-, rfl⟩ | ⟨-, rfl⟩ | ⟨-, r, rfl⟩ := exec_cases h
  · exact s.clearRegisters_earlier
  · exact absurd hs hi
  · rfl
  · exact s.holdWord_earlier _
  · rw [State.nextPixel_earlier, State.transferBeat_earlier]
  · exact s.showResult_earlier r

/-- An operation other than EMIT and START transfers no beat and keeps those transferred. -/
theorem stream_of_exec {i : Instr} {s t : State} (h : exec i s = .next t) (he : i ≠ .emit)
    (hi : i ≠ .start) : t.stream = s.stream := by
  obtain ⟨-, rfl⟩ | ⟨hs, -⟩ | ⟨-, rfl⟩ | ⟨-, rfl⟩ | ⟨hemit, -⟩ | ⟨-, r, rfl⟩ := exec_cases h
  · exact s.clearRegisters_stream
  · exact absurd hs hi
  · rfl
  · exact s.holdWord_stream _
  · exact absurd hemit he
  · exact s.showResult_stream r

/-- Settles O30: EMIT's bytes are `State.readByte_emit` at the two offsets and elsewhere; every other
operation is the frame of `stream_of_exec`. -/
theorem streamBytesWrittenByEmitAlone : Obligations.StreamBytesWrittenByEmitAlone := by
  intro i s t h
  refine ⟨?_, earlier_of_exec h, fun he hi => ?_⟩
  · rintro rfl
    cases h
    refine ⟨?_, ?_, fun a h0 h1 => ?_⟩
    · rw [State.readByte_emit, if_pos rfl, lane0]
    · rw [State.readByte_emit, if_neg (by omega), if_pos rfl, lane1]
    · rw [State.readByte_emit, if_neg h0, if_neg h1]
  · have hstream := stream_of_exec h he hi
    exact ⟨hstream, State.readByte_congr hstream⟩

/-! ### The output ports (R26, R27, R31, R36) -/

theorem State.pixReq_iff (s : State) : s.pixReq = true ↔ s.phase = .fetch := beq_iff_eq

theorem State.outValid_iff (s : State) : s.outValid = true ↔ s.phase = .emit := beq_iff_eq

theorem State.done_iff (s : State) : s.done = true ↔ s.phase = .done := beq_iff_eq

/-- `busy` is the upper bit of the phase, which FETCH and EMIT have set (R25, R26). -/
theorem State.busy_iff (s : State) : s.busy = true ↔ s.phase = .fetch ∨ s.phase = .emit := by
  unfold State.busy
  cases s.phase <;> decide

/-- IDLE is the phase in which neither flag is set (R26, R27). -/
theorem State.phase_idle_iff (s : State) : s.phase = .idle ↔ s.busy = false ∧ s.done = false := by
  rw [← Bool.not_eq_true, ← Bool.not_eq_true, s.busy_iff, s.done_iff]
  cases s.phase <;> decide

/-- Without the swap the two lanes are put together as they were (R116). -/
theorem bytemux_false (w : Word) : bytemux w false = w := by
  change w.extractLsb' 8 8 ++ w.extractLsb' 0 8 = w
  exact (BitVec.extractLsb'_append_extractLsb'_eq_extractLsb' rfl).trans BitVec.extractLsb'_eq_self

/-- With the swap they are exchanged (R116). -/
theorem bytemux_true (w : Word) : bytemux w true = w.extractLsb' 0 8 ++ w.extractLsb' 8 8 := rfl

/-- `out_data` by the latched swap flag (R36, R116). -/
theorem State.outData_eq (s : State) :
    s.outData = if s.cfgSwapQ then s.wreg.extractLsb' 0 8 ++ s.wreg.extractLsb' 8 8 else s.wreg := by
  rw [State.outData]
  cases s.cfgSwapQ
  · exact bytemux_false s.wreg
  · exact bytemux_true s.wreg

/-- Settles O31: one lemma per port; the position ports are the registers themselves. -/
theorem outputsDecodeThePhase : Obligations.OutputsDecodeThePhase := fun s =>
  ⟨s.busy_iff, s.done_iff, s.pixReq_iff, s.outValid_iff, s.phase_idle_iff, rfl, rfl, rfl, s.outData_eq⟩

/-! ### Reset (R37, R141, R202) -/

/-- An edge selects RESET exactly when `rst` is 1: no row of a lower priority is RESET's. -/
theorem State.fetched_reset_iff {s : State} (h : s.atEdge = true) :
    s.fetched = .reset ↔ s.inp.rst = true := by
  rw [State.fetched_at_edge h]
  split
  case isTrue hr => exact iff_of_true rfl hr
  case isFalse hr =>
    refine iff_of_false ?_ hr
    split <;> split <;> nofun

/-- Settles O1: the selection is `State.fetched_reset_iff`, the state `clearRegisters`, and every output is
a function of its cleared registers. -/
theorem resetForcesTheResetValues : Obligations.ResetForcesTheResetValues := by
  intro s
  refine ⟨State.fetched_reset_iff, s.clearRegisters, rfl, exec_reset s, ?_⟩
  obtain ⟨hbusy, hdone⟩ := s.clearRegisters.phase_idle_iff.1 s.clearRegisters_phase
  exact ⟨hbusy, hdone, rfl, rfl, rfl, rfl, bytemux_false 0, rfl⟩

/-! ### The requested pixel (R32, R153, R155) -/

/-- Inside the image the index is below the number of pixels (R157). -/
theorem idx_lt_of_insideImage {s : State} (h : InsideImage s) :
    s.idx.toNat < s.cfgWQ.toNat * s.cfgHQ.toNat := by
  obtain ⟨-, -, hx, hy, hidx⟩ := h
  calc s.idx.toNat
      = s.y.toNat * s.cfgWQ.toNat + s.x.toNat := hidx
    _ < (s.y.toNat + 1) * s.cfgWQ.toNat := by rw [Nat.succ_mul]; omega
    _ ≤ s.cfgHQ.toNat * s.cfgWQ.toNat := Nat.mul_le_mul_right _ hy
    _ = s.cfgWQ.toNat * s.cfgHQ.toNat := Nat.mul_comm _ _

/-- Inside the image the position is the index taken apart by the width (R155). -/
theorem position_of_insideImage {s : State} (h : InsideImage s) :
    s.x.toNat = s.idx.toNat % s.cfgWQ.toNat ∧ s.y.toNat = s.idx.toNat / s.cfgWQ.toNat := by
  obtain ⟨hw, -, hx, -, hidx⟩ := h
  have hsplit : s.x.toNat + s.cfgWQ.toNat * s.y.toNat = s.idx.toNat := by
    rw [hidx, Nat.mul_comm, Nat.add_comm]
  obtain ⟨hdiv, hmod⟩ := (Nat.div_mod_unique hw).2 ⟨hsplit, hx⟩
  exact ⟨hmod.symm, hdiv.symm⟩

/-- Settles O43: a request or an offer means FETCH or EMIT, where the invariant puts the position inside
the image. -/
theorem requestIsThePixelOfTheIndex : Obligations.RequestIsThePixelOfTheIndex := by
  rintro s ⟨-, hrun, -⟩ hport
  have hin : InsideImage s := hrun (hport.imp s.pixReq_iff.1 s.outValid_iff.1)
  obtain ⟨hx, hy⟩ := position_of_insideImage hin
  have hidx := idx_lt_of_insideImage hin
  obtain ⟨-, -, hxw, hyh, -⟩ := hin
  exact ⟨hxw, hyh, hidx, hx, hy⟩

end Sys2Proof.Machine
end

section
/-! PROOFS. The statements of `20_memory.md`: which ports an edge reads (R66), what an unanswered handshake
does (R67), and the bytes of the stream (R58). -/

namespace Sys2Proof.Machine

open Sys2Proof.Safety

/-! ### The operation an edge selects (R184) -/

/-- An edge selects START exactly when it is no reset, `start` is 1 and no pass is running (R142). -/
theorem State.fetched_start_iff {s : State} (h : s.atEdge = true) :
    s.fetched = .start ↔
      s.inp.rst = false ∧ s.inp.start = true ∧ (s.phase = .idle ∨ s.phase = .done) := by
  rw [State.fetched_at_edge h]
  cases s.inp.rst <;> cases s.phase <;> simp [ite_eq_iff]

/-- An edge selects FETCH exactly when it is no reset and answers the request (R146). -/
theorem State.fetched_fetch_iff {s : State} (h : s.atEdge = true) :
    s.fetched = .fetch ↔ s.inp.rst = false ∧ s.inp.pixValid = true ∧ s.phase = .fetch := by
  rw [State.fetched_at_edge h]
  cases s.inp.rst <;> cases s.phase <;> simp [ite_eq_iff]

/-! ### The ports an edge reads (R66, R184, R205) -/

section OfferedEdge

variable {s : State} {i j : Inputs s.conf} (ls : List (Line s.conf))

theorem withPending_edge_atEdge : (withPending s (.edge i :: ls)).atEdge = true :=
  State.atEdge_of_pending rfl

theorem withPending_edge_inp : (withPending s (.edge i :: ls)).inp = i :=
  State.inp_of_pending rfl

theorem withPending_phase : (withPending s ls).phase = s.phase := rfl

/-- Inputs that agree where the phase reads them select one operation: `rst` decides first, then the port
the phase looks at. -/
theorem withPending_edge_fetched_congr (h : AgreeWhereRead s.phase i j) :
    (withPending s (.edge i :: ls)).fetched = (withPending s (.edge j :: ls)).fetched := by
  obtain ⟨hrst, hread⟩ := h
  rw [State.fetched_at_edge (withPending_edge_atEdge ls), State.fetched_at_edge (withPending_edge_atEdge ls)]
  simp only [withPending_edge_inp, withPending_phase, ← hrst]
  cases hr : i.rst with
  | true => rfl
  | false =>
    replace hread := hread hr
    cases hp : s.phase with
    | idle => rw [hp] at hread; simp only [hread.1]
    | done => rw [hp] at hread; simp only [hread.1]
    | fetch => rw [hp] at hread; simp only [hread.1]
    | emit => rw [hp] at hread; simp only [hread]

/-- Only START and FETCH read a port other than those that select the operation. -/
theorem finishStep_exec_withPending_edge_congr {o : Instr} (hstart : o ≠ .start) (hfetch : o ≠ .fetch) :
    finishStep (exec o (withPending s (.edge i :: ls))) =
      finishStep (exec o (withPending s (.edge j :: ls))) := by
  cases o with
  | start => exact absurd rfl hstart
  | fetch => exact absurd rfl hfetch
  | _ => rfl

/-- Of the ports START reads the configuration alone (R142). -/
theorem finishStep_exec_start_congr (hw : i.cfgWidth = j.cfgWidth) (hh : i.cfgHeight = j.cfgHeight)
    (hs : i.cfgSwap = j.cfgSwap) :
    finishStep (exec .start (withPending s (.edge i :: ls))) =
      finishStep (exec .start (withPending s (.edge j :: ls))) := by
  cases i; cases j; cases hw; cases hh; cases hs; rfl

/-- Of the ports FETCH reads the three channels alone (R146). -/
theorem finishStep_exec_fetch_congr (hr : i.pixR = j.pixR) (hg : i.pixG = j.pixG) (hb : i.pixB = j.pixB) :
    finishStep (exec .fetch (withPending s (.edge i :: ls))) =
      finishStep (exec .fetch (withPending s (.edge j :: ls))) := by
  cases i; cases j; cases hr; cases hg; cases hb; rfl

end OfferedEdge

/-- In IDLE and DONE a START edge reads the configuration. -/
theorem config_eq_of_agreeWhereRead {c : Config} {p : Phase} {i j : Inputs c} (h : AgreeWhereRead p i j)
    (hrst : i.rst = false) (hstart : i.start = true) (hp : p = .idle ∨ p = .done) :
    i.cfgWidth = j.cfgWidth ∧ i.cfgHeight = j.cfgHeight ∧ i.cfgSwap = j.cfgSwap := by
  obtain ⟨-, hread⟩ := h
  obtain rfl | rfl := hp
  · exact (hread hrst).2 hstart
  · exact (hread hrst).2 hstart

/-- In FETCH an edge that answers the request reads the channels. -/
theorem channels_eq_of_agreeWhereRead {c : Config} {p : Phase} {i j : Inputs c} (h : AgreeWhereRead p i j)
    (hrst : i.rst = false) (hvalid : i.pixValid = true) (hp : p = .fetch) :
    i.pixR = j.pixR ∧ i.pixG = j.pixG ∧ i.pixB = j.pixB := by
  obtain ⟨-, hread⟩ := h
  obtain rfl := hp
  exact (hread hrst).2 hvalid

/-- Settles O35: the operation selected is the same, and START and FETCH, the two that read further ports,
read ports the inputs agree on. -/
theorem unreadInputsHaveNoEffect : Obligations.UnreadInputsHaveNoEffect := by
  intro s i j ls hagree
  rw [step_of_fetched rfl, step_of_fetched (withPending_edge_fetched_congr ls hagree).symm]
  by_cases hstart : (withPending s (.edge i :: ls)).fetched = .start
  · obtain ⟨hrst, hon, hphase⟩ := (State.fetched_start_iff (withPending_edge_atEdge ls)).1 hstart
    rw [withPending_edge_inp] at hrst hon
    obtain ⟨hw, hh, hswap⟩ := config_eq_of_agreeWhereRead hagree hrst hon hphase
    rw [hstart]
    exact finishStep_exec_start_congr ls hw hh hswap
  by_cases hfetch : (withPending s (.edge i :: ls)).fetched = .fetch
  · obtain ⟨hrst, hvalid, hphase⟩ := (State.fetched_fetch_iff (withPending_edge_atEdge ls)).1 hfetch
    rw [withPending_edge_inp] at hrst hvalid
    obtain ⟨hr, hg, hb⟩ := channels_eq_of_agreeWhereRead hagree hrst hvalid hphase
    rw [hfetch]
    exact finishStep_exec_fetch_congr ls hr hg hb
  exact finishStep_exec_withPending_edge_congr ls hstart hfetch

/-! ### Waiting for the host (R67, R147, R150) -/

/-- The edge leaves the handshake of the phase unanswered. -/
def WaitsAt {c : Config} (p : Phase) (i : Inputs c) : Prop :=
  i.rst = false ∧ (p = .fetch ∧ i.pixValid = false ∨ p = .emit ∧ i.outReady = false)

/-- An unanswered edge moves the host's list and the edge count alone. -/
theorem step_of_waitsAt {s : State} {i : Inputs s.conf} {ls : List (Line s.conf)}
    (hpend : s.pending = .edge i :: ls) (hwait : WaitsAt s.phase i) :
    step s = .next { s with pending := ls, edges := s.edges + 1 } := by
  have hedge : s.atEdge = true := State.atEdge_of_pending hpend
  have hstay : step s = .next s.nextLine := by
    obtain ⟨hrst, ⟨hp, hno⟩ | ⟨hp, hno⟩⟩ := hwait
    · have hf : s.fetched = .fetchWait := by
        rw [State.fetched_at_edge hedge, State.inp_of_pending hpend, hp, hrst, hno]; rfl
      exact step_of_fetched hf
    · have hf : s.fetched = .emitWait := by
        rw [State.fetched_at_edge hedge, State.inp_of_pending hpend, hp, hrst, hno]; rfl
      exact step_of_fetched hf
  rw [hstay, State.nextLine, hedge, hpend]
  rfl

theorem runSteps_succ {k : Nat} {s t : State} (h : step s = .next t) : runSteps (k + 1) s = runSteps k t := by
  rw [runSteps, h]

/-- Any number of unanswered edges: each keeps the phase, so the next one is unanswered too. -/
theorem runSteps_of_waitsAt (s : State) (is : List (Inputs s.conf)) (ls : List (Line s.conf)) (e : Nat)
    (hwait : ∀ i ∈ is, WaitsAt s.phase i) :
    runSteps is.length { s with pending := is.map Line.edge ++ ls, edges := e } =
      .next { s with pending := ls, edges := e + is.length } := by
  induction is generalizing e with
  | nil => rfl
  | cons i is ih =>
    obtain ⟨hi, his⟩ := List.forall_mem_cons.1 hwait
    have hfirst : step { s with pending := (i :: is).map Line.edge ++ ls, edges := e } =
        .next { s with pending := is.map Line.edge ++ ls, edges := e + 1 } :=
      step_of_waitsAt (s := { s with pending := (i :: is).map Line.edge ++ ls, edges := e }) rfl hi
    rw [List.length_cons, runSteps_succ hfirst, ih (e + 1) his, Nat.add_right_comm, Nat.add_assoc]

/-- Settles O38, by induction on the unanswered edges. -/
theorem unansweredHandshakeHangs : Obligations.UnansweredHandshakeHangs := by
  intro s is ls hpend hwait
  have hall : ∀ i ∈ is, WaitsAt s.phase i := by
    obtain ⟨hp, hno⟩ | ⟨hp, hno⟩ := hwait
    · exact fun i hi => (hno i hi).imp_right fun h => .inl ⟨hp, h⟩
    · exact fun i hi => (hno i hi).imp_right fun h => .inr ⟨hp, h⟩
  have hrun := runSteps_of_waitsAt s is ls s.edges hall
  rwa [← hpend] at hrun

/-! ### The bytes of the stream (R50, R51, R58) -/

/-- Without the swap lane 0 is the word's low byte, with it the high byte (R116). -/
theorem lane0_bytemux (w : Word) (swap : Bool) :
    lane0 (bytemux w swap) = if swap then w.extractLsb' 8 8 else w.extractLsb' 0 8 := by
  cases swap with
  | false => rw [bytemux_false]; rfl
  | true => rw [bytemux_true]; exact BitVec.extractLsb'_append_eq_right

/-- Lane 1 is the other byte (R116). -/
theorem lane1_bytemux (w : Word) (swap : Bool) :
    lane1 (bytemux w swap) = if swap then w.extractLsb' 0 8 else w.extractLsb' 8 8 := by
  cases swap with
  | false => rw [bytemux_false]; rfl
  | true => rw [bytemux_true]; exact BitVec.extractLsb'_append_eq_left

section Bytes

variable (img : Image) (w : Nat) (swap : Bool)

/-- Lane 0 of beat k is byte 2*k of S (R51, R58). -/
theorem lane0_beatOf (k : Nat) : lane0 (beatOf img w swap k).data = streamByte img w swap (2 * k) := by
  have hdiv : 2 * k / 2 = k := by omega
  have hmod : 2 * k % 2 = 0 := by omega
  rw [beatOf, lane0_bytemux, streamByte, hdiv, hmod]
  cases swap <;> rfl

/-- Lane 1 of beat k is byte 2*k+1 of S (R51, R58). -/
theorem lane1_beatOf (k : Nat) : lane1 (beatOf img w swap k).data = streamByte img w swap (2 * k + 1) := by
  have hdiv : (2 * k + 1) / 2 = k := by omega
  have hmod : (2 * k + 1) % 2 = 1 := by omega
  rw [beatOf, lane1_bytemux, streamByte, hdiv, hmod]
  cases swap <;> rfl

theorem beatOf_index (k : Nat) : (beatOf img w swap k).index = k := rfl

theorem beatsUpTo_succ (n : Nat) :
    beatsUpTo img w swap (n + 1) = beatsUpTo img w swap n ++ [beatOf img w swap n] := by
  simp [beatsUpTo, List.range_succ]

/-- The first n beats are the first 2*n bytes of S, in order. -/
theorem byteStream_beatsUpTo (n : Nat) :
    byteStream (beatsUpTo img w swap n) = (List.range (2 * n)).map (streamByte img w swap) := by
  induction n with
  | zero => rfl
  | succ n ih =>
    rw [beatsUpTo_succ, byteStream_append, ih, lane0_beatOf, lane1_beatOf, Nat.mul_succ, List.range_succ,
      List.range_succ]
    simp

/-- Their byte-offset space holds S below 2*n and nothing above. -/
theorem read_streamMemory_beatsUpTo (n j : Nat) :
    (streamMemory (beatsUpTo img w swap n)).read j =
      if j < 2 * n then some (streamByte img w swap j) else none := by
  induction n with
  | zero => rfl
  | succ n ih =>
    rw [beatsUpTo_succ, streamMemory_append, Memory.read_storeBeat, lane0_beatOf, lane1_beatOf, beatOf_index,
      ih]
    obtain rfl | rfl | hj : j = 2 * n ∨ j = 2 * n + 1 ∨ j ≠ 2 * n ∧ j ≠ 2 * n + 1 := by omega
    · rw [if_pos rfl, if_pos (by omega)]
    · rw [if_neg (by omega), if_pos rfl, if_pos (by omega)]
    · have hlt : j < 2 * (n + 1) ↔ j < 2 * n := by omega
      simp only [if_neg hj.1, if_neg hj.2, hlt]

end Bytes

/-- Settles O48: the byte stream is S's first 2*n bytes as a list, and the byte-offset space the same bytes
by offset. -/
theorem streamBytesAreThoseOfTheImage : Obligations.StreamBytesAreThoseOfTheImage := by
  intro img w n swap j
  rw [byteStream_beatsUpTo, read_streamMemory_beatsUpTo]
  refine ⟨by simp, fun hj => ⟨?_, if_pos hj⟩, fun hj => if_neg (by omega)⟩
  rw [List.getElem?_map, List.getElem?_range hj]
  rfl

end Sys2Proof.Machine
end

section
/-! PROOFS. The statements of `30_encoding.md`: the words of the formats and what they decode to (R80 to R91),
the packed word's bits (R85), how a table word or a datapath input is offered, and stimulus lines with their
pseudo-operation PASS (R92, R93). -/

namespace Sys2Proof

open Sys2Proof.Machine

/-! ### Words of three fields -/

section ThreeFields

variable {a b c n : Nat} (hi : BitVec a) (mid : BitVec b) (lo : BitVec c)

/-- Bits above the lower two fields are read from the upper one. -/
theorem extractLsb'_append_append_hi {start : Nat} (h : c + b ≤ start) :
    (hi ++ mid ++ lo).extractLsb' start n = hi.extractLsb' (start - c - b) n :=
  (BitVec.extractLsb'_append_eq_of_le (by omega)).trans (BitVec.extractLsb'_append_eq_of_le (by omega))

/-- Bits between the two boundaries are read from the middle field. -/
theorem extractLsb'_append_append_mid {start : Nat} (hlo : c ≤ start) (hhi : start + n ≤ c + b) :
    (hi ++ mid ++ lo).extractLsb' start n = mid.extractLsb' (start - c) n :=
  (BitVec.extractLsb'_append_eq_of_le hlo).trans (BitVec.extractLsb'_append_eq_of_add_le (by omega))

/-- A word cut into three adjacent fields is put together from them again. -/
theorem extractLsb'_append3_eq_self (v : BitVec (a + b + c)) :
    v.extractLsb' (b + c) a ++ v.extractLsb' c b ++ v.extractLsb' 0 c = v := by
  rw [BitVec.extractLsb'_append_extractLsb'_eq_extractLsb' (Nat.add_comm b c),
    BitVec.extractLsb'_append_extractLsb'_eq_extractLsb' (Nat.zero_add c).symm, BitVec.extractLsb'_eq_self]

end ThreeFields

/-! ### The datapath formats: decoding and encoding are inverse (R81, R113, R116) -/

theorem decodePix_append (r g b : Byte) : decodePix (r ++ g ++ b) = .quantize r g b := by
  have hr : (r ++ g ++ b).extractLsb' 16 8 = r :=
    (extractLsb'_append_append_hi r g b (by decide)).trans BitVec.extractLsb'_eq_self
  have hg : (r ++ g ++ b).extractLsb' 8 8 = g :=
    (extractLsb'_append_append_mid r g b (by decide) (by decide)).trans BitVec.extractLsb'_eq_self
  have hb : (r ++ g ++ b).extractLsb' 0 8 = b := BitVec.extractLsb'_append_eq_right
  rw [decodePix, hr, hg, hb]

theorem decodePackedWord_append (r5 : BitVec 5) (g6 : BitVec 6) (b5 : BitVec 5) :
    decodePackedWord (r5 ++ g6 ++ b5) = .pack565 r5 g6 b5 := by
  have hr : (r5 ++ g6 ++ b5).extractLsb' 11 5 = r5 :=
    (extractLsb'_append_append_hi r5 g6 b5 (by decide)).trans BitVec.extractLsb'_eq_self
  have hg : (r5 ++ g6 ++ b5).extractLsb' 5 6 = g6 :=
    (extractLsb'_append_append_mid r5 g6 b5 (by decide) (by decide)).trans BitVec.extractLsb'_eq_self
  have hb : (r5 ++ g6 ++ b5).extractLsb' 0 5 = b5 := BitVec.extractLsb'_append_eq_right
  rw [decodePackedWord, hr, hg, hb]

theorem decodeBeat_append (swap : Bool) (word : Word) :
    decodeBeat (BitVec.ofBool swap ++ word) = .bytemux swap word := by
  have hs : (BitVec.ofBool swap ++ word).getLsbD 16 = swap := by
    rw [BitVec.getLsbD_append]
    exact BitVec.getLsbD_ofBool swap 0
  have hw : (BitVec.ofBool swap ++ word).extractLsb' 0 16 = word := BitVec.extractLsb'_append_eq_right
  rw [decodeBeat, hs, hw]

theorem encode_decodePix (v : BitVec 24) : encode (decodePix v) = ⟨.pix, v.toNat⟩ :=
  congrArg (fun u : BitVec 24 => (⟨.pix, u.toNat⟩ : Encoded))
    (extractLsb'_append3_eq_self (a := 8) (b := 8) (c := 8) v)

theorem encode_decodePackedWord (v : BitVec 16) : encode (decodePackedWord v) = ⟨.packedWord, v.toNat⟩ :=
  congrArg (fun u : BitVec 16 => (⟨.packedWord, u.toNat⟩ : Encoded))
    (extractLsb'_append3_eq_self (a := 5) (b := 6) (c := 5) v)

theorem encode_decodeBeat (v : BitVec 17) : encode (decodeBeat v) = ⟨.beat, v.toNat⟩ := by
  have hs : BitVec.ofBool (v.getLsbD 16) = v.extractLsb' 16 1 := by
    have hbit : ∀ u : BitVec 1, BitVec.ofBool (u == 1#1) = u := by decide
    rw [BitVec.getLsbD_eq_extractLsb', hbit]
  have hv : BitVec.ofBool (v.getLsbD 16) ++ v.extractLsb' 0 16 = v := by
    rw [hs]
    exact BitVec.extractLsb'_append_extractLsb' (w := 1) (len := 16)
  exact congrArg (fun u : BitVec 17 => (⟨.beat, u.toNat⟩ : Encoded)) hv

/-! ### A format's words and the operations they stand for (R90, R91) -/

theorem decode_cv6 (v : BitVec 6) : decode .cv6 v.toNat = .ok (decodeCV v) :=
  (decode_of_fits (f := .cv6) v.isLt).trans (by simp)

theorem decode_pix (v : BitVec 24) : decode .pix v.toNat = .ok (decodePix v) :=
  (decode_of_fits (f := .pix) v.isLt).trans (by simp)

theorem decode_packedWord (v : BitVec 16) : decode .packedWord v.toNat = .ok (decodePackedWord v) :=
  (decode_of_fits (f := .packedWord) v.isLt).trans (by simp)

theorem decode_beat (v : BitVec 17) : decode .beat v.toNat = .ok (decodeBeat v) :=
  (decode_of_fits (f := .beat) v.isLt).trans (by simp)

/-- Only a word that fits its format decodes. -/
theorem fits_of_decode {f : Format} {w : Nat} {i : Instr} (h : decode f w = .ok i) : w < 2 ^ f.width := by
  by_contra hwide
  rw [decode_of_tooWide (Nat.not_lt.1 hwide)] at h
  cases h

/-- What a word that decodes is: a bit vector of its format's width, read as that format says. -/
theorem decode_cases {f : Format} {w : Nat} {i : Instr} (h : decode f w = .ok i) :
    (∃ v : BitVec 6, f = .cv6 ∧ w = v.toNat ∧ i = decodeCV v) ∨
    (∃ v : BitVec 24, f = .pix ∧ w = v.toNat ∧ i = decodePix v) ∨
    (∃ v : BitVec 16, f = .packedWord ∧ w = v.toNat ∧ i = decodePackedWord v) ∨
    (∃ v : BitVec 17, f = .beat ∧ w = v.toNat ∧ i = decodeBeat v) := by
  have hfit := fits_of_decode h
  have hw := (decode_of_fits hfit).symm.trans h
  cases f with
  | cv6 => exact .inl ⟨.ofNat 6 w, rfl, (Nat.mod_eq_of_lt hfit).symm, (Except.ok.inj hw).symm⟩
  | pix => exact .inr (.inl ⟨.ofNat 24 w, rfl, (Nat.mod_eq_of_lt hfit).symm, (Except.ok.inj hw).symm⟩)
  | packedWord =>
    exact .inr (.inr (.inl ⟨.ofNat 16 w, rfl, (Nat.mod_eq_of_lt hfit).symm, (Except.ok.inj hw).symm⟩))
  | beat => exact .inr (.inr (.inr ⟨.ofNat 17 w, rfl, (Nat.mod_eq_of_lt hfit).symm, (Except.ok.inj hw).symm⟩))

/-- Settles O9: the word's width alone decides (`decode_of_fits`, `decode_of_tooWide`). -/
theorem everyFittingWordIsAnOperation : Obligations.EveryFittingWordIsAnOperation := by
  refine fun f w => ⟨fun hfit => ?_, decode_of_tooWide⟩
  rw [decode_of_fits hfit]
  cases f <;> exact ⟨_, rfl⟩

/-- Settles O10: each word is evaluated. -/
theorem wordsOfTheTableDecode : Obligations.WordsOfTheTableDecode :=
  ⟨rfl, rfl, rfl, rfl, rfl, rfl, rfl, rfl, rfl, rfl⟩

/-! ### The encoder (R87) -/

/-- The facts about the encoder, one per operation, as one statement about every operation. -/
theorem encodedRow_statement (i : Instr) : Laws.EncodedRow.Statement i := by
  cases i with
  | reset => exact Laws.EncodedRow.reset
  | start => exact Laws.EncodedRow.start
  | hold => exact Laws.EncodedRow.hold
  | fetch => exact Laws.EncodedRow.fetch
  | fetchWait => exact Laws.EncodedRow.fetchWait
  | emit => exact Laws.EncodedRow.emit
  | emitWait => exact Laws.EncodedRow.emitWait
  | quantize r g b => exact Laws.EncodedRow.quantize r g b
  | pack565 r5 g6 b5 => exact Laws.EncodedRow.pack565 r5 g6 b5
  | bytemux swap word => exact Laws.EncodedRow.bytemux swap word

theorem encode_wf (i : Instr) : (encode i).wf = true := (encodedRow_statement i).1

/-- A control operation's word is its row's match, a control vector (log entry 14). -/
theorem encode_of_cvRow {i : Instr} {r : CvRow} (h : i.cvRow = some r) :
    encode i = ⟨.cv6, r.matchBits.toNat⟩ := by
  cases i <;> cases h <;> rfl

/-- An operation with a row is selected by the row's match. -/
theorem selectedBy_matchBits {i : Instr} {r : CvRow} (h : i.cvRow = some r) :
    i.selectedBy r.matchBits = true := by
  cases i <;> cases h <;> rfl

/-- The operation a control vector selects has a row, and the row takes the vector (R87). -/
theorem cvRow_of_selectedBy {i : Instr} {cv : BitVec 6} (h : i.selectedBy cv = true) :
    ∃ r, i.cvRow = some r ∧ cv &&& r.mask = r.matchBits := by
  unfold Instr.selectedBy at h
  split at h
  · next r hr => exact ⟨r, hr, beq_iff_eq.1 h⟩
  · cases h

/-- A control operation's word decodes to it: the match selects the operation, and no other is selected. -/
theorem decode_encode_of_cvRow {i : Instr} {r : CvRow} (h : i.cvRow = some r) :
    decode (encode i).format (encode i).word = .ok i := by
  rw [encode_of_cvRow h, eq_decodeCV_of_selected (selectedBy_matchBits h)]
  exact decode_cv6 _

theorem decode_encode (i : Instr) : decode (encode i).format (encode i).word = .ok i := by
  cases hrow : i.cvRow with
  | some r => exact decode_encode_of_cvRow hrow
  | none =>
    cases i with
    | quantize r g b => exact (decode_pix _).trans (congrArg _ (decodePix_append r g b))
    | pack565 r5 g6 b5 => exact (decode_packedWord _).trans (congrArg _ (decodePackedWord_append r5 g6 b5))
    | bytemux swap word => exact (decode_beat _).trans (congrArg _ (decodeBeat_append swap word))
    | _ => cases hrow

/-- Settles O7. -/
theorem decodingAnEncodedOperationGivesItBack : Obligations.DecodingAnEncodedOperationGivesItBack :=
  fun i => ⟨encode_wf i, decode_encode i⟩

/-- Settles O8: the four formats of `decode_cases`; a control vector's row is that of the operation it
selects, and the three datapath decoders are undone by the encoder. -/
theorem wordsHaveOneMeaning : Obligations.WordsHaveOneMeaning := by
  intro f w i h
  obtain ⟨v, rfl, rfl, rfl⟩ | ⟨v, rfl, rfl, rfl⟩ | ⟨v, rfl, rfl, rfl⟩ | ⟨v, rfl, rfl, rfl⟩ := decode_cases h
  · refine ⟨fun hf => absurd rfl hf, fun _ => ?_⟩
    obtain ⟨r, hrow, hmatch⟩ := cvRow_of_selectedBy (decodeCV_selected v)
    refine ⟨r, hrow, ?_, congrArg Encoded.word (encode_of_cvRow hrow)⟩
    rwa [BitVec.ofNat_toNat, BitVec.setWidth_eq]
  · exact ⟨fun _ => encode_decodePix v, nofun⟩
  · exact ⟨fun _ => encode_decodePackedWord v, nofun⟩
  · exact ⟨fun _ => encode_decodeBeat v, nofun⟩

/-! ### The control vector (R80, R87, R89) -/

/-- The four ports and the phase are found again at their bits (R80). -/
theorem controlVector_bits (rst start pv rdy : Bool) (p : Phase) :
    (controlVector rst start pv rdy p).getLsbD 5 = rst ∧ (controlVector rst start pv rdy p).getLsbD 4 = start ∧
      (controlVector rst start pv rdy p).getLsbD 3 = pv ∧ (controlVector rst start pv rdy p).getLsbD 2 = rdy ∧
      (controlVector rst start pv rdy p).extractLsb' 0 2 = p.bits := by
  unfold controlVector
  generalize p.bits = b
  revert rst start pv rdy b
  decide

/-- A control vector is made of its own bits. -/
theorem controlVector_of_bits : ∀ cv : BitVec 6,
    controlVector (cv.getLsbD 5) (cv.getLsbD 4) (cv.getLsbD 3) (cv.getLsbD 2)
      (Phase.ofBits (cv.extractLsb' 0 2)) = cv := by
  decide

/-- Settles O3. -/
theorem controlVectorBits : Obligations.ControlVectorBits := fun _ => controlVector_bits _ _ _ _ _

/-- Settles O4: the row of the operation decoded takes the vector, and `eq_decodeCV_of_selected` says no
other does; what each row reads and how many vectors it takes is evaluated over the 64 vectors. -/
theorem controlRowsPartitionAllVectors : Obligations.ControlRowsPartitionAllVectors :=
  ⟨fun cv => ⟨decodeCV cv, decodeCV_selected cv, fun _ h => eq_decodeCV_of_selected h⟩,
    by decide, by decide⟩

namespace Machine

/-! ### Offering a word (log entries 7 and 8) -/

/-- The state that offers a control vector presents that vector at its edge. -/
theorem State.offerCV_cv (s : State) (cv : BitVec 6) : (s.offerCV cv).cv = cv := controlVector_of_bits cv

theorem State.offerCV_fetched (s : State) (cv : BitVec 6) : (s.offerCV cv).fetched = decodeCV cv :=
  congrArg decodeCV (s.offerCV_cv cv)

theorem State.offerDatapath_fetched (s : State) (d : DatapathWord) :
    (s.offerDatapath d).fetched = d.decode :=
  State.fetched_of_datapath rfl

/-- The operation a word decodes to is the one fetched where the word is offered. -/
theorem State.offer_fetched (s : State) {f : Format} {w : Nat} {i : Instr} (h : decode f w = .ok i) :
    (s.offer f w).fetched = i := by
  have hi := (decode_of_fits (fits_of_decode h)).symm.trans h
  cases f with
  | cv6 => exact (s.offerCV_fetched _).trans (Except.ok.inj hi)
  | pix => exact (s.offerDatapath_fetched _).trans (Except.ok.inj hi)
  | packedWord => exact (s.offerDatapath_fetched _).trans (Except.ok.inj hi)
  | beat => exact (s.offerDatapath_fetched _).trans (Except.ok.inj hi)

/-- A table word that reads as an operation is a word of its format that decodes to it. -/
theorem decode_of_decodeTableWord {nbits w : Nat} {i : Instr} (h : decodeTableWord nbits w = some i) :
    ∃ f, tableFormat nbits w = some f ∧ decode f w = .ok i := by
  unfold decodeTableWord at h
  split at h
  · next f hf =>
    refine ⟨f, hf, ?_⟩
    cases hd : decode f w with
    | ok j => rw [hd] at h; exact congrArg _ (Option.some.inj h)
    | error e => rw [hd] at h; cases h
  · cases h

/-- Settles O12: `withFetchWord` offers the word in the format that `decodeTableWord` reads it in. -/
theorem offeredTableWordRunsNext : Obligations.OfferedTableWordRunsNext := by
  intro s nbits w i h
  obtain ⟨f, hf, hd⟩ := decode_of_decodeTableWord h
  have hoffer : s.withFetchWord nbits w = s.offer f w := by rw [State.withFetchWord, hf]
  have hfetched : (s.withFetchWord nbits w).fetched = i := hoffer ▸ s.offer_fetched hd
  exact ⟨hfetched, step_of_fetched hfetched⟩

/-! ### Datapath lines (log entry 5) -/

/-- A datapath function shows a result and does nothing else (R110, R113, R116). -/
theorem exec_datapathWord (d : DatapathWord) (s : State) : ∃ r, exec d.decode s = .next (s.showResult r) := by
  cases d <;> exact ⟨_, rfl⟩

/-- Settles O21: the function of `exec_datapathWord` is the step's, and the line is no edge to count. -/
theorem datapathLineWritesNoRegister : Obligations.DatapathLineWritesNoRegister := by
  intro s d hline
  obtain ⟨r, hexec⟩ := exec_datapathWord d s
  have hoff : (s.showResult r).atEdge = false := by rw [State.showResult_atEdge, State.atEdge, hline, isEdge]
  refine ⟨r, ?_⟩
  rw [step_of_fetched (State.fetched_of_datapath hline), hexec, finishStep_next, State.nextLine, hoff]
  rfl

/-! ### The packed word's bits (R85, R113) -/

/-- The three shifted fields overlap nowhere, so the word is the fields side by side (R82). -/
theorem pack565_eq_append (r5 : BitVec 5) (g6 : BitVec 6) (b5 : BitVec 5) :
    pack565 r5 g6 b5 = r5 ++ g6 ++ b5 := by
  have hor : (r5 ++ g6 ++ b5).setWidth 16 = pack565 r5 g6 b5 :=
    BitVec.setWidth_append_append_eq_shiftLeft_setWidth_or
  rw [← hor, BitVec.setWidth_eq]

/-- The kept bits of a shifted channel are its top bits (R111). -/
theorem setWidth_ushiftRight_eq_extractLsb' {n m : Nat} (v : BitVec n) (k : Nat) :
    (v >>> k).setWidth m = v.extractLsb' k m := by
  rw [← BitVec.toNat_inj, BitVec.toNat_setWidth, BitVec.toNat_ushiftRight, BitVec.extractLsb'_toNat]

/-- `pack1` puts the channels' top bits side by side (R110, R113). -/
theorem pack1_eq_append (r g b : Byte) :
    pack1 r g b = r.extractLsb' 3 5 ++ g.extractLsb' 2 6 ++ b.extractLsb' 3 5 := by
  simp only [pack1, quantize, pack565_eq_append, setWidth_ushiftRight_eq_extractLsb']

/-- Settles O16: both sides of each equation are the same bits of one channel. -/
theorem packedWordAssembledFromPix : Obligations.PackedWordAssembledFromPix := by
  intro r g b
  rw [pack1_eq_append]
  refine ⟨?_, ?_, ?_⟩
  · rw [extractLsb'_append_append_hi _ _ _ (by decide), extractLsb'_append_append_hi _ _ _ (by decide)]
    exact BitVec.extractLsb'_eq_self
  · rw [extractLsb'_append_append_mid _ _ _ (by decide) (by decide),
      extractLsb'_append_append_mid _ _ _ (by decide) (by decide)]
    exact BitVec.extractLsb'_eq_self
  · rw [BitVec.extractLsb'_append_eq_right, BitVec.extractLsb'_append_eq_of_add_le (by decide)]

end Machine

end Sys2Proof

namespace Sys2Proof.Machine

open Sys2Proof.Safety

/-! ### A stimulus line at an edge (R92) -/

/-- The line of R93's body: `NOP +pv +rdy`. -/
def serveLine : StimLine := ⟨.nop, true, true⟩

section Line

variable (img : Image) (ln : StimLine) {s : State}

theorem State.drive_atEdge : (s.drive img ln).atEdge = true := State.atEdge_of_pending rfl

theorem State.drive_inp : (s.drive img ln).inp = s.stimulus img ln := State.inp_of_pending rfl

/-- A `+pv` line drives the requested pixel's channels on the pixel port. -/
theorem State.openPorts_of_pixReq (hpv : ln.pv = true) (hreq : s.pixReq = true) :
    s.openPorts img ln =
      (Config.freeInputs s.conf s.edges).withPixel (img s.pixX.toNat s.pixY.toNat) := by
  rw [State.openPorts, hpv, hreq]
  rfl

/-- The one-bit ports are those of the line's nibble. -/
theorem State.stimulus_rst : (s.stimulus img ln).rst = ln.nibble.getLsbD 3 := rfl

theorem State.stimulus_start : (s.stimulus img ln).start = ln.nibble.getLsbD 2 := rfl

theorem runStimulus_cons {t : State} {rest : List StimLine} (h : step (s.drive img ln) = .next t) :
    runStimulus img (ln :: rest) s = runStimulus img rest t := by
  rw [runStimulus, h]

end Line

theorem nibble_start (w h b : Nat) : StimLine.nibble ⟨.start w h b, false, false⟩ = 0b0100 :=
  show 0b01#2 ++ BitVec.ofBool false ++ BitVec.ofBool false = 0b0100 by decide

/-- An edge selects EMIT exactly when it is no reset and takes the offered beat (R148). -/
theorem State.fetched_emit_iff {s : State} (h : s.atEdge = true) :
    s.fetched = .emit ↔ s.inp.rst = false ∧ s.inp.outReady = true ∧ s.phase = .emit := by
  rw [State.fetched_at_edge h]
  cases s.inp.rst <;> cases s.phase <;> simp [ite_eq_iff]

/-- A START line where no pass is running: the pass is opened with the line's configuration (R142). -/
theorem step_drive_start (img : Image) {s : State} (w h b : Nat) (hbusy : s.busy = false) :
    step (s.drive img ⟨.start w h b, false, false⟩) = .next { s with
      phase := if BitVec.ofNat s.conf.dimW w == 0 || BitVec.ofNat s.conf.dimW h == 0 then .done else .fetch
      cfgWQ := BitVec.ofNat _ w
      cfgHQ := BitVec.ofNat _ h
      cfgSwapQ := b == 1
      x := 0
      y := 0
      idx := 0
      edges := s.edges + 1
      earlier := s.earlier ++ s.stream
      stream := [] } := by
  have hphase : s.phase = .idle ∨ s.phase = .done := by
    have hrun := mt s.busy_iff.2 (Bool.not_eq_true _ ▸ hbusy)
    cases hp : s.phase with
    | idle => exact .inl rfl
    | done => exact .inr rfl
    | fetch => exact absurd (.inl hp) hrun
    | emit => exact absurd (.inr hp) hrun
  have hf : (s.drive img ⟨.start w h b, false, false⟩).fetched = .start :=
    (State.fetched_start_iff (State.drive_atEdge img _)).2 (by
      rw [State.drive_inp, State.stimulus_rst, State.stimulus_start, nibble_start]
      exact ⟨rfl, rfl, hphase⟩)
  exact step_of_fetched hf

/-- A `NOP +pv +rdy` in FETCH: the requested pixel of the image is packed and held (R146). -/
theorem step_drive_serve_fetch (img : Image) {s : State} (hp : s.phase = .fetch) :
    step (s.drive img serveLine) = .next { s with
      phase := .emit, wreg := packPixel (img s.x.toNat s.y.toNat), edges := s.edges + 1 } := by
  have hf : (s.drive img serveLine).fetched = .fetch :=
    (State.fetched_fetch_iff (State.drive_atEdge img _)).2 (by rw [State.drive_inp]; exact ⟨rfl, rfl, hp⟩)
  have hpix : pack1 (s.drive img serveLine).inp.pixR (s.drive img serveLine).inp.pixG
      (s.drive img serveLine).inp.pixB = packPixel (img s.x.toNat s.y.toNat) := by
    rw [State.drive_inp, State.stimulus, State.openPorts_of_pixReq img serveLine rfl (s.pixReq_iff.2 hp)]
    rfl
  have hstep : step (s.drive img serveLine) = .next ((s.drive img serveLine).holdWord
      (pack1 (s.drive img serveLine).inp.pixR (s.drive img serveLine).inp.pixG
        (s.drive img serveLine).inp.pixB)).nextLine := step_of_fetched hf
  rw [hstep, hpix]
  rfl

/-- A `NOP +pv +rdy` in EMIT: the beat is transferred and the position moves (R148). -/
theorem step_drive_serve_emit (img : Image) {s : State} (hp : s.phase = .emit) :
    step (s.drive img serveLine) = .next { s with
      phase := if s.lastPixel then .done else .fetch
      x := (advance s.cfgWQ s.x s.y).1
      y := (advance s.cfgWQ s.x s.y).2
      idx := s.idx + 1
      edges := s.edges + 1
      stream := s.stream ++ [⟨s.idx.toNat, bytemux s.wreg s.cfgSwapQ⟩] } := by
  have hf : (s.drive img serveLine).fetched = .emit :=
    (State.fetched_emit_iff (State.drive_atEdge img _)).2 (by rw [State.drive_inp]; exact ⟨rfl, rfl, hp⟩)
  exact step_of_fetched hf

/-! ### The scan order as arithmetic (R149, R155) -/

/-- The position of the next index: one column on, or the start of the next row. -/
theorem succ_mod_div {w : Nat} (hw : 0 < w) (n : Nat) :
    (n + 1) % w = (if n % w + 1 < w then n % w + 1 else 0) ∧
      (n + 1) / w = if n % w + 1 < w then n / w else n / w + 1 := by
  have hn := Nat.mod_add_div n w
  have hlt := Nat.mod_lt n hw
  split
  · next hcol => exact ((Nat.div_mod_unique hw).2 ⟨by omega, hcol⟩).symm
  · next hcol => exact ((Nat.div_mod_unique hw).2 ⟨by rw [Nat.mul_succ]; omega, hw⟩).symm

/-- The last index is that of the last column of the last row. -/
theorem succ_eq_mul_iff {w h : Nat} (hw : 0 < w) (n : Nat) :
    n + 1 = w * h ↔ n % w + 1 = w ∧ n / w + 1 = h := by
  obtain ⟨hmod, hdiv⟩ := succ_mod_div hw n
  constructor
  · intro hlast
    rw [hlast, Nat.mul_mod_right] at hmod
    rw [hlast, Nat.mul_div_cancel_left h hw] at hdiv
    have hlt := Nat.mod_lt n hw
    split at hmod
    · omega
    · next hcol => exact ⟨by omega, by rw [if_neg hcol] at hdiv; exact hdiv.symm⟩
  · rintro ⟨hcol, rfl⟩
    have hn := Nat.mod_add_div n w
    rw [Nat.mul_succ]
    omega

/-- `ADVANCE` takes the position of index n to that of n + 1 where both fit the counters. -/
theorem advance_ofNat {c w n : Nat} (hw0 : 0 < w) (hw : w < 2 ^ c) (hy : n / w + 1 < 2 ^ c) :
    advance (BitVec.ofNat c w) (BitVec.ofNat c (n % w)) (BitVec.ofNat c (n / w)) =
      (BitVec.ofNat c ((n + 1) % w), BitVec.ofNat c ((n + 1) / w)) := by
  have hcol := Nat.mod_lt n hw0
  have hcol' : (n + 1) % w < 2 ^ c := (Nat.mod_lt _ hw0).trans hw
  obtain ⟨hmod, hdiv⟩ := succ_mod_div hw0 n
  have hrow' : (n + 1) / w < 2 ^ c := by rw [hdiv]; split <;> omega
  have ew : (BitVec.ofNat c w).toNat = w := Nat.mod_eq_of_lt hw
  have ex : (BitVec.ofNat c (n % w)).toNat = n % w := Nat.mod_eq_of_lt (by omega)
  have ey : (BitVec.ofNat c (n / w)).toNat = n / w := Nat.mod_eq_of_lt (by omega)
  obtain ⟨hx', hy'⟩ := advance_toNat (w := BitVec.ofNat c w) (x := BitVec.ofNat c (n % w))
    (y := BitVec.ofNat c (n / w)) (by rw [ew, ex]; exact hcol) (by rw [ey]; exact hy)
  refine Prod.ext (BitVec.eq_of_toNat_eq ?_) (BitVec.eq_of_toNat_eq ?_)
  · rw [hx', ex, ew, ← hmod]
    exact (Nat.mod_eq_of_lt hcol').symm
  · rw [hy', ex, ew, ey, ← hdiv]
    exact (Nat.mod_eq_of_lt hrow').symm

/-! ### A pass line by line (R93) -/

/-- The phase of a pass with n of its beats transferred and no pixel held. -/
def passPhase (w h n : Nat) : Phase := if n = w * h then .done else .fetch

/-- The state in a pass that was started from `s`, `k` edges after `s` and with n beats transferred, in
phase `p` and with `v` in `wreg`. -/
def State.inPass (img : Image) (w h : Nat) (swap : Bool) (s : State) (n : Nat) (p : Phase) (v : Word)
    (k : Nat) : State :=
  { s with
    phase := p
    cfgWQ := BitVec.ofNat _ w
    cfgHQ := BitVec.ofNat _ h
    cfgSwapQ := swap
    x := BitVec.ofNat _ (n % w)
    y := BitVec.ofNat _ (n / w)
    idx := BitVec.ofNat _ n
    wreg := v
    edges := s.edges + k
    earlier := s.earlier ++ s.stream
    stream := beatsUpTo img w swap n }

section Pass

variable {img : Image} {s : State} {w h : Nat} {swap : Bool}

/-- START of a well-formed line opens a pass with no beat, one edge after `s`. -/
theorem step_drive_start_inPass (b : Nat) (hw : w < 2 ^ s.conf.dimW) (hh : h < 2 ^ s.conf.dimW)
    (hbusy : s.busy = false) :
    step (s.drive img ⟨.start w h b, false, false⟩) =
      .next (s.inPass img w h (b == 1) 0 (passPhase w h 0) s.wreg 1) := by
  have hphase : (if BitVec.ofNat s.conf.dimW w == 0 || BitVec.ofNat s.conf.dimW h == 0
      then Phase.done else .fetch) = passPhase w h 0 := by
    have hzero : ∀ d, d < 2 ^ s.conf.dimW → (BitVec.ofNat s.conf.dimW d = 0 ↔ d = 0) := fun d hd => by
      rw [← BitVec.toNat_inj, BitVec.toNat_ofNat, Nat.mod_eq_of_lt hd]; rfl
    rw [passPhase]
    simp only [Bool.or_eq_true, beq_iff_eq, hzero w hw, hzero h hh, eq_comm (a := 0), Nat.mul_eq_zero]
  rw [step_drive_start img w h b hbusy, hphase, State.inPass, Nat.zero_mod, Nat.zero_div]
  rfl

section Pixel

variable {n : Nat} (hn : n < w * h) (hw : w < 2 ^ s.conf.dimW) (hh : h < 2 ^ s.conf.dimW)

include hn hw hh

/-- The position of pixel n fits the counters. -/
theorem inPass_position_toNat (p : Phase) (v : Word) (k : Nat) :
    (s.inPass img w h swap n p v k).x.toNat = n % w ∧ (s.inPass img w h swap n p v k).y.toNat = n / w := by
  have hcol : n % w < w := Nat.mod_lt n (Nat.pos_of_mul_pos_right (Nat.zero_lt_of_lt hn))
  have hrow : n / w < h := Nat.div_lt_of_lt_mul hn
  exact ⟨Nat.mod_eq_of_lt (by omega), Nat.mod_eq_of_lt (by omega)⟩

/-- Serving pixel n in FETCH: its word is held. -/
theorem step_drive_serve_inPass_fetch (v : Word) (k : Nat) :
    step ((s.inPass img w h swap n .fetch v k).drive img serveLine) =
      .next (s.inPass img w h swap n .emit (packPixel (img (n % w) (n / w))) (k + 1)) := by
  obtain ⟨hx, hy⟩ := inPass_position_toNat (img := img) (swap := swap) hn hw hh .fetch v k
  rw [step_drive_serve_fetch img rfl, hx, hy]
  rfl

/-- `last` at pixel n says that n is the last index (R148). -/
theorem lastPixel_inPass (p : Phase) (v : Word) (k : Nat) :
    (s.inPass img w h swap n p v k).lastPixel = decide (n + 1 = w * h) := by
  have hpos := Nat.zero_lt_of_lt hn
  have hw0 : 1 ≤ w := Nat.pos_of_mul_pos_right hpos
  have hh0 : 1 ≤ h := Nat.pos_of_mul_pos_left hpos
  have ew : (s.inPass img w h swap n p v k).cfgWQ.toNat = w := Nat.mod_eq_of_lt hw
  have eh : (s.inPass img w h swap n p v k).cfgHQ.toNat = h := Nat.mod_eq_of_lt hh
  obtain ⟨hx, hy⟩ := inPass_position_toNat (img := img) (swap := swap) hn hw hh p v k
  rw [State.lastPixel, atLast_eq (ew.symm ▸ hw0), atLast_eq (eh.symm ▸ hh0), hx, hy, ew, eh]
  simp [succ_eq_mul_iff hw0]

/-- Serving pixel n in EMIT: its beat is transferred and the next pixel is requested, or the pass is done. -/
theorem step_drive_serve_inPass_emit (k : Nat) :
    step ((s.inPass img w h swap n .emit (packPixel (img (n % w) (n / w))) k).drive img serveLine) =
      .next (s.inPass img w h swap (n + 1) (passPhase w h (n + 1)) (packPixel (img (n % w) (n / w)))
        (k + 1)) := by
  have hw0 : 0 < w := Nat.pos_of_mul_pos_right (Nat.zero_lt_of_lt hn)
  have hrow : n / w < h := Nat.div_lt_of_lt_mul hn
  have hidx : n < 2 ^ s.conf.idxW := by
    calc n < w * h := hn
      _ ≤ 2 ^ s.conf.dimW * 2 ^ s.conf.dimW := Nat.mul_le_mul hw.le hh.le
      _ = 2 ^ s.conf.idxW := by rw [← Nat.pow_add, Config.idxW, Nat.two_mul]
  have ei : (BitVec.ofNat s.conf.idxW n).toNat = n := Nat.mod_eq_of_lt hidx
  rw [step_drive_serve_emit img rfl, lastPixel_inPass hn hw hh]
  simp only [State.inPass, advance_ofNat hw0 hw (by omega : n / w + 1 < 2 ^ s.conf.dimW), ei,
    beatsUpTo_succ, BitVec.ofNat_add, passPhase, decide_eq_true_eq]
  rfl

end Pixel

/-- The lines of the pixels from n on lead to DONE, by induction on how many are left. -/
theorem runStimulus_serve_inPass (hw : w < 2 ^ s.conf.dimW) (hh : h < 2 ^ s.conf.dimW) (m n : Nat)
    (hm : n + m = w * h) (v : Word) (k : Nat) :
    ∃ v' : Word, runStimulus img (List.replicate (2 * m) serveLine)
        (s.inPass img w h swap n (passPhase w h n) v k) =
      .next (s.inPass img w h swap (w * h) .done v' (k + 2 * m)) := by
  induction m generalizing n v k with
  | zero =>
    obtain rfl : n = w * h := hm
    exact ⟨v, by rw [passPhase, if_pos rfl]; rfl⟩
  | succ m ih =>
    have hn : n < w * h := by omega
    obtain ⟨v', hrest⟩ := ih (n + 1) (by omega) (packPixel (img (n % w) (n / w))) (k + 1 + 1)
    refine ⟨v', ?_⟩
    rw [Nat.mul_succ, List.replicate_succ, List.replicate_succ, passPhase, if_neg hn.ne,
      runStimulus_cons img _ (step_drive_serve_inPass_fetch hn hw hh v k),
      runStimulus_cons img _ (step_drive_serve_inPass_emit hn hw hh (k + 1)), hrest,
      show k + 1 + 1 + 2 * m = k + (2 * m + 2) by omega]

end Pass

/-- Settles O51: the START line opens the pass, the other lines serve its pixels, and index W*H stands at
column 0 of row H, or at the origin for an empty pass. -/
theorem passNotationRunsAWholePass : Obligations.PassNotationRunsAWholePass := by
  intro img s w h b hbusy hwf
  obtain ⟨⟨hw, hh⟩, -⟩ : (w < 2 ^ s.conf.dimW ∧ h < 2 ^ s.conf.dimW) ∧ b < 2 := by
    simpa [StimLine.wf, StimOp.wf] using hwf _ (List.mem_cons_self ..)
  obtain ⟨v, hrun⟩ := runStimulus_serve_inPass (img := img) (swap := b == 1) hw hh (w * h) 0
    (Nat.zero_add _) s.wreg 1
  refine ⟨v, ?_⟩
  have hlast : BitVec.ofNat s.conf.dimW (w * h / w) = if w * h = 0 then 0 else BitVec.ofNat _ h := by
    split
    · next hempty => rw [hempty, Nat.zero_div]; rfl
    · next hsome => rw [Nat.mul_div_cancel_left h (Nat.pos_of_ne_zero (by rintro rfl; simp at hsome))]
  rw [StimLine.pass, Nat.mul_assoc, runStimulus_cons img _ (step_drive_start_inPass b hw hh hbusy)]
  refine hrun.trans ?_
  rw [State.inPass, Nat.mul_mod_right, hlast, ← Nat.add_assoc]
  rfl

end Sys2Proof.Machine
end

section
/-! PROOFS. The statements of `40_datapath.md`: the three datapath functions, by their bits and as numbers
(R110 to R116, R118), each evaluated by itself, and the channel no rule reads (R117). -/

namespace Sys2Proof

/-! ### Fields of a bit vector -/

section Fields

variable {a b n : Nat}

/-- Words of two fields are equal exactly when the fields are. -/
theorem append_eq_append_iff {hi hi' : BitVec a} {lo lo' : BitVec b} :
    hi ++ lo = hi' ++ lo' ↔ hi = hi' ∧ lo = lo' := by
  refine ⟨fun h => ⟨?_, ?_⟩, fun ⟨hhi, hlo⟩ => hhi ▸ hlo ▸ rfl⟩
  · simpa only [BitVec.extractLsb'_append_eq_left] using congrArg (BitVec.extractLsb' b a) h
  · simpa only [BitVec.extractLsb'_append_eq_right] using congrArg (BitVec.extractLsb' 0 b) h

/-- The upper field weighs two to the width of the lower one. -/
theorem toNat_append_eq_mul_add (hi : BitVec a) (lo : BitVec b) :
    (hi ++ lo).toNat = hi.toNat * 2 ^ b + lo.toNat := by
  rw [BitVec.toNat_append, ← Nat.shiftLeft_add_eq_or_of_lt lo.isLt, Nat.shiftLeft_eq]

/-- The top bits of a value are its quotient, rounded down (R111). -/
theorem toNat_extractLsb'_top (v : BitVec n) {k m : Nat} (h : n ≤ k + m) :
    (v.extractLsb' k m).toNat = v.toNat / 2 ^ k := by
  have hfits : v.toNat / 2 ^ k < 2 ^ m := Nat.div_lt_of_lt_mul <|
    calc v.toNat < 2 ^ n := v.isLt
      _ ≤ 2 ^ (k + m) := Nat.pow_le_pow_right (by decide) h
      _ = 2 ^ k * 2 ^ m := Nat.pow_add 2 k m
  rw [BitVec.extractLsb'_toNat, Nat.shiftRight_eq_div_pow, Nat.mod_eq_of_lt hfits]

/-- Shifting a widened value down leaves its top bits, widened. -/
theorem setWidth_ushiftRight_eq_setWidth_top (v : BitVec n) {k m l : Nat} (hl : n ≤ l) (hm : n ≤ k + m)
    (hml : m ≤ l) : v.setWidth l >>> k = (v.extractLsb' k m).setWidth l := by
  have hv : v.toNat < 2 ^ l := v.isLt.trans_le (Nat.pow_le_pow_right (by decide) hl)
  have htop : (v.extractLsb' k m).toNat < 2 ^ l :=
    (v.extractLsb' k m).isLt.trans_le (Nat.pow_le_pow_right (by decide) hml)
  rw [← BitVec.toNat_inj, BitVec.toNat_ushiftRight, BitVec.toNat_setWidth, BitVec.toNat_setWidth,
    Nat.mod_eq_of_lt hv, Nat.mod_eq_of_lt htop, toNat_extractLsb'_top v hm, Nat.shiftRight_eq_div_pow]

/-- A field shifted into place in a wider value is found again at its bits. -/
theorem extractLsb'_setWidth_shiftLeft (v : BitVec a) {k : Nat} (h : k + a ≤ n) :
    (v.setWidth n <<< k).extractLsb' k a = v := by
  refine BitVec.eq_of_getLsbD_eq fun i hi => ?_
  have hin : k + i < n := by omega
  simp [hi, hin]

end Fields

namespace Machine

open Sys2Proof.Safety

/-! ### QUANTIZE (R110, R111, R112) -/

theorem quantize_eq_top_bits (r g b : Byte) :
    quantize r g b = (r.extractLsb' 3 5, g.extractLsb' 2 6, b.extractLsb' 3 5) := by
  simp only [quantize, setWidth_ushiftRight_eq_extractLsb']

/-- Settles O13: the fields are the channels' top bits, which as numbers are the quotients. -/
theorem quantizeTruncatesToTheTopBits : Obligations.QuantizeTruncatesToTheTopBits := by
  intro r g b
  have hr : (r >>> 3).toNat < 32 := r.toNat_ushiftRight_lt 3 (by decide)
  have hg : (g >>> 2).toNat < 64 := g.toNat_ushiftRight_lt 2 (by decide)
  have hb : (b >>> 3).toNat < 32 := b.toNat_ushiftRight_lt 3 (by decide)
  rw [quantize_eq_top_bits]
  exact ⟨rfl, ⟨Nat.le_of_lt_succ hr, Nat.le_of_lt_succ hg, Nat.le_of_lt_succ hb⟩,
    toNat_extractLsb'_top r (by decide), toNat_extractLsb'_top g (by decide),
    toNat_extractLsb'_top b (by decide)⟩

/-! ### PACK565 and `pack1` (R113, R115, R118) -/

/-- The fields of a packed word are found again at their bits (R82). -/
theorem extractLsb'_pack565 (r5 : BitVec 5) (g6 : BitVec 6) (b5 : BitVec 5) :
    (pack565 r5 g6 b5).extractLsb' 11 5 = r5 ∧ (pack565 r5 g6 b5).extractLsb' 5 6 = g6 ∧
      (pack565 r5 g6 b5).extractLsb' 0 5 = b5 := by
  rw [pack565_eq_append]
  exact Instr.pack565.inj (decodePackedWord_append r5 g6 b5)

/-- `pack1` as the source writes it: the channels are widened before they are shifted (R113). -/
theorem pack1_eq_shifted_or (r g b : Byte) :
    pack1 r g b =
      ((r.setWidth 16 >>> 3) <<< 11) ||| ((g.setWidth 16 >>> 2) <<< 5) ||| (b.setWidth 16 >>> 3) := by
  rw [setWidth_ushiftRight_eq_setWidth_top (m := 5) r (by decide) (by decide) (by decide),
    setWidth_ushiftRight_eq_setWidth_top (m := 6) g (by decide) (by decide) (by decide),
    setWidth_ushiftRight_eq_setWidth_top (m := 5) b (by decide) (by decide) (by decide), pack1,
    quantize_eq_top_bits]
  rfl

/-- Settles O14. -/
theorem packLaysOutTheFields : Obligations.PackLaysOutTheFields :=
  ⟨fun r5 g6 b5 => ⟨pack565_eq_append r5 g6 b5, rfl, extractLsb'_pack565 r5 g6 b5⟩, pack1_eq_shifted_or⟩

/-- Settles O15: each field side by side with those below it weighs two to their width, and is its
channel's quotient. -/
theorem packedWordAsANumber : Obligations.PackedWordAsANumber := by
  intro r g b
  have hr : (r.extractLsb' 3 5).toNat = r.toNat / 8 := toNat_extractLsb'_top r (by decide)
  have hg : (g.extractLsb' 2 6).toNat = g.toNat / 4 := toNat_extractLsb'_top g (by decide)
  have hb : (b.extractLsb' 3 5).toNat = b.toNat / 8 := toNat_extractLsb'_top b (by decide)
  rw [pack1_eq_append, toNat_append_eq_mul_add, toNat_append_eq_mul_add, hr, hg, hb]
  omega

/-- Settles O17: QUANTIZE takes each field out of its expanded channel again, and the three fields of a word
make the word. -/
theorem expandedWordPacksToItself : Obligations.ExpandedWordPacksToItself := by
  intro w
  rw [pack1_eq_append, extractLsb'_setWidth_shiftLeft _ (by decide),
    extractLsb'_setWidth_shiftLeft _ (by decide), extractLsb'_setWidth_shiftLeft _ (by decide)]
  exact extractLsb'_append3_eq_self (a := 5) (b := 6) (c := 5) w

/-- Settles O18: the packed word is the kept bits side by side, and nothing else. -/
theorem packedWordIsTheKeptBits : Obligations.PackedWordIsTheKeptBits := by
  intro r g b r' g' b'
  rw [pack1_eq_append, pack1_eq_append, append_eq_append_iff, append_eq_append_iff, and_assoc]

/-! ### BYTEMUX (R86, R116) -/

theorem bytemux_eq_ite (w : Word) (swap : Bool) :
    bytemux w swap = if swap then w.extractLsb' 0 8 ++ w.extractLsb' 8 8 else w := by
  cases swap with
  | false => exact bytemux_false w
  | true => exact bytemux_true w

/-- Exchanging the lanes twice puts them back. -/
theorem bytemux_true_bytemux_true (w : Word) : bytemux (bytemux w true) true = w :=
  calc bytemux (bytemux w true) true
      = lane0 (bytemux w true) ++ lane1 (bytemux w true) := rfl
    _ = w.extractLsb' 8 8 ++ w.extractLsb' 0 8 := by rw [lane0_bytemux, lane1_bytemux]; rfl
    _ = w := bytemux_false w

/-- The two byte orders give one beat exactly when the bytes are equal. -/
theorem bytemux_true_eq_false_iff (w : Word) :
    bytemux w true = bytemux w false ↔ w.extractLsb' 0 8 = w.extractLsb' 8 8 :=
  append_eq_append_iff.trans (and_iff_left_of_imp Eq.symm)

/-- Settles O19. -/
theorem bytemuxOrdersTheLanes : Obligations.BytemuxOrdersTheLanes := fun w =>
  ⟨bytemux_false w, lane0_bytemux w true, lane1_bytemux w true, bytemux_true_bytemux_true w,
    bytemux_true_eq_false_iff w⟩

/-! ### The functions evaluated by themselves (log entry 5) -/

theorem exec_quantize (r g b : Byte) (s : State) :
    exec (.quantize r g b) s =
      .next (s.showResult (.fields (quantize r g b).1 (quantize r g b).2.1 (quantize r g b).2.2)) := rfl

theorem exec_pack565 (r5 : BitVec 5) (g6 : BitVec 6) (b5 : BitVec 5) (s : State) :
    exec (.pack565 r5 g6 b5) s = .next (s.showResult (.word (pack565 r5 g6 b5))) := rfl

theorem exec_bytemux (swap : Bool) (word : Word) (s : State) :
    exec (.bytemux swap word) s = .next (s.showResult (.beat (bytemux word swap))) := rfl

/-- Settles O20: each operation shows its function's value, and the values are those of the lemmas above. -/
theorem datapathFunctionsComplete : Obligations.DatapathFunctionsComplete := by
  refine ⟨fun r g b s => ?_, fun r5 g6 b5 s => ?_, fun swap word s => ?_⟩
  · rw [exec_quantize, quantize_eq_top_bits, State.showResult]
  · rw [exec_pack565, pack565_eq_append, State.showResult]
  · rw [exec_bytemux, bytemux_eq_ite, State.showResult]

/-! ### Alpha (R117) -/

/-- No phase reads `pix_a`: inputs that differ in it alone agree where any phase reads them. -/
theorem agreeWhereRead_pixA {c : Config} (p : Phase) (i : Inputs c) (alpha : Byte) :
    AgreeWhereRead p i { i with pixA := alpha } := by
  refine ⟨rfl, fun _ => ?_⟩
  cases p with
  | idle => exact ⟨rfl, fun _ => ⟨rfl, rfl, rfl⟩⟩
  | done => exact ⟨rfl, fun _ => ⟨rfl, rfl, rfl⟩⟩
  | fetch => exact ⟨rfl, fun _ => ⟨rfl, rfl, rfl⟩⟩
  | emit => exact rfl

/-- Settles O33: a step depends only on the ports its phase reads (R184). -/
theorem alphaIsNeverRead : Obligations.AlphaIsNeverRead := fun s i alpha ls =>
  unreadInputsHaveNoEffect s i _ ls (agreeWhereRead_pixA s.phase i alpha)

end Machine

end Sys2Proof
end

section
/-! PROOFS. The statements of `41_scanner.md`: which operation an edge performs (R140) and what each one does
(R142 to R150), the position invariant (R157, R158), the pass invariant and the pass contract (R151 to R156). -/

namespace Sys2Proof.Machine

open Sys2Proof.Safety

/-! ### The operation of an edge (R87, R140) -/

section Selection

variable {s : State}

/-- At an edge the operation is the one whose row takes the control vector (R140). -/
theorem State.fetched_eq_decodeCV (h : s.atEdge = true) : s.fetched = decodeCV s.cv := by
  unfold State.fetched
  cases hl : s.line with
  | edge i => rfl
  | datapath d => rw [State.atEdge, hl] at h; cases h

theorem State.fetched_iff_selectedBy (h : s.atEdge = true) (i : Instr) :
    s.fetched = i ↔ i.selectedBy s.cv = true := by
  rw [State.fetched_eq_decodeCV h]
  constructor
  · rintro rfl
    exact decodeCV_selected s.cv
  · exact fun hsel => (eq_decodeCV_of_selected hsel).symm

theorem State.fetched_hold_iff (h : s.atEdge = true) :
    s.fetched = .hold ↔
      s.inp.rst = false ∧ s.inp.start = false ∧ (s.phase = .idle ∨ s.phase = .done) := by
  rw [State.fetched_at_edge h]
  cases s.inp.rst <;> cases s.phase <;> simp [ite_eq_iff]

theorem State.fetched_fetchWait_iff (h : s.atEdge = true) :
    s.fetched = .fetchWait ↔ s.inp.rst = false ∧ s.inp.pixValid = false ∧ s.phase = .fetch := by
  rw [State.fetched_at_edge h]
  cases s.inp.rst <;> cases s.phase <;> simp [ite_eq_iff]

theorem State.fetched_emitWait_iff (h : s.atEdge = true) :
    s.fetched = .emitWait ↔ s.inp.rst = false ∧ s.inp.outReady = false ∧ s.phase = .emit := by
  rw [State.fetched_at_edge h]
  cases s.inp.rst <;> cases s.phase <;> simp [ite_eq_iff]

/-- A control operation is selected at an edge, so what its row reads of the ports and the phase holds. -/
theorem State.atEdge_of_fetched {i : Instr} {r : CvRow} (h : s.fetched = i) (hrow : i.cvRow = some r) :
    s.atEdge = true :=
  State.atEdge_of_cvRow (h ▸ hrow)

theorem State.reads_of_fetched_start (h : s.fetched = .start) :
    s.inp.rst = false ∧ s.inp.start = true ∧ (s.phase = .idle ∨ s.phase = .done) :=
  (State.fetched_start_iff (State.atEdge_of_fetched h rfl)).1 h

theorem State.reads_of_fetched_fetch (h : s.fetched = .fetch) :
    s.inp.rst = false ∧ s.inp.pixValid = true ∧ s.phase = .fetch :=
  (State.fetched_fetch_iff (State.atEdge_of_fetched h rfl)).1 h

theorem State.reads_of_fetched_emit (h : s.fetched = .emit) :
    s.inp.rst = false ∧ s.inp.outReady = true ∧ s.phase = .emit :=
  (State.fetched_emit_iff (State.atEdge_of_fetched h rfl)).1 h

end Selection

/-- Settles O5: the selected operation is the one of `State.fetched_iff_selectedBy`, and the step is its
effect with the host moved on. -/
theorem edgePerformsTheMatchingOperation : Obligations.EdgePerformsTheMatchingOperation := by
  intro s i hedge
  have hiff := State.fetched_iff_selectedBy hedge i
  refine ⟨hiff, fun hsel t hexec => ?_⟩
  rw [step_of_fetched (hiff.2 hsel), hexec, finishStep_next]

/-- Settles O11: `step` finishes what the fetched operation answers, and the host's move is `nextLine`. -/
theorem stepRunsTheFetchedOperation : Obligations.StepRunsTheFetchedOperation := by
  intro s i t hf hexec
  rw [step_of_fetched hf, hexec, finishStep_next, State.nextLine]

/-! ### What the operations do (R142 to R150) -/

theorem exec_fetch (s : State) :
    exec .fetch s = .next (s.holdWord (pack1 s.inp.pixR s.inp.pixG s.inp.pixB)) := rfl

theorem exec_emit (s : State) : exec .emit s = .next s.transferBeat.nextPixel := rfl

/-- Settles O25: the three rows' selection, and `exec` of each answers the state itself. -/
theorem waitsWriteNothing : Obligations.WaitsWriteNothing := fun _ =>
  ⟨fun hedge => ⟨State.fetched_hold_iff hedge, State.fetched_fetchWait_iff hedge,
    State.fetched_emitWait_iff hedge⟩, rfl, rfl, rfl⟩

/-- Settles O26: FETCH's selection, and its update is `holdWord` of the packed channels. -/
theorem fetchHoldsThePackedPixel : Obligations.FetchHoldsThePackedPixel := fun s =>
  ⟨State.fetched_fetch_iff, exec_fetch s⟩

/-- The flags after an operation that goes to DONE on a condition and to FETCH otherwise (R26, R27). -/
theorem State.done_iff_of_phase {s : State} {c : Prop} [Decidable c]
    (h : s.phase = if c then .done else .fetch) : s.done = true ↔ c := by
  rw [State.done_iff, h]
  split
  · next hc => exact iff_of_true rfl hc
  · next hc => exact iff_of_false nofun hc

theorem State.busy_iff_of_phase {s : State} {c : Prop} [Decidable c]
    (h : s.phase = if c then .done else .fetch) : s.busy = true ↔ ¬c := by
  rw [State.busy_iff, h]
  split
  · next hc => exact iff_of_false (by simp) (not_not_intro hc)
  · next hc => exact iff_of_true (.inl rfl) hc

/-- START goes to DONE for a zero dimension and to FETCH otherwise (R142, R143). -/
theorem State.openPass_phase_eq (s : State) :
    s.openPass.phase = if s.inp.cfgWidth = 0 ∨ s.inp.cfgHeight = 0 then .done else .fetch := by
  simp only [State.openPass_phase, Bool.or_eq_true, beq_iff_eq]

theorem State.openPass_phase_ne (s : State) : s.openPass.phase ≠ .idle ∧ s.openPass.phase ≠ .emit := by
  rw [State.openPass_phase_eq]
  split <;> exact ⟨nofun, nofun⟩

/-- Settles O22: START's selection, and `openPass` with its phase by `State.openPass_phase_eq`. -/
theorem startLatchesAndOpensAPass : Obligations.StartLatchesAndOpensAPass := by
  intro s
  have hphase := s.openPass_phase_eq
  refine ⟨State.fetched_start_iff, s.openPass, s.earlier ++ s.stream, [], ?_, exec_start s,
    (State.busy_iff_of_phase hphase).trans not_or, State.done_iff_of_phase hphase, List.append_nil _⟩
  simp only [State.openPass, Bool.or_eq_true, beq_iff_eq]

/-- Settles O24: an opened pass with a zero dimension is in DONE, where nothing is requested or offered. -/
theorem zeroDimensionMakesAnEmptyPass : Obligations.ZeroDimensionMakesAnEmptyPass := by
  intro s hf hzero
  have hdone : s.openPass.nextLine.phase = .done := by
    rw [State.nextLine_phase, State.openPass_phase_eq, if_pos hzero]
  refine ⟨s.openPass.nextLine, by rw [step_of_fetched hf, exec_start, finishStep_next], hdone, rfl, rfl, rfl,
    rfl, rfl, rfl, ?_, ?_, rfl, State.readByte_of_stream_nil rfl⟩
  · rw [State.pixReq, hdone]; rfl
  · rw [State.outValid, hdone]; rfl

/-! ### EMIT (R148, R149) -/

/-- `ADVANCE`, counter by counter (R149). -/
theorem advance_eq {n : Nat} (w x y : BitVec n) :
    (advance w x y).1 = (if x + 1 < w then x + 1 else 0) ∧
      (advance w x y).2 = if x + 1 < w then y else y + 1 := by
  unfold advance
  split <;> exact ⟨rfl, rfl⟩

theorem ofNat_toNat_add_one {n : Nat} (p : BitVec n) : BitVec.ofNat n (p.toNat + 1) = p + 1 := by
  rw [BitVec.ofNat_add, BitVec.ofNat_toNat, BitVec.setWidth_eq]
  rfl

theorem State.nextPixel_phase_cases (s : State) :
    s.nextPixel.phase = .done ∨ s.nextPixel.phase = .fetch := by
  rw [State.nextPixel_phase]
  exact ite_eq_or_eq ..

theorem State.nextPixel_phase_ne (s : State) : s.nextPixel.phase ≠ .idle ∧ s.nextPixel.phase ≠ .emit := by
  rcases s.nextPixel_phase_cases with h | h <;> rw [h] <;> exact ⟨nofun, nofun⟩

/-- Where no dimension is 0 the free values of log entry 6 play no part (R148). -/
theorem State.lastPixel_of_ne_zero {s : State} (hw : s.cfgWQ ≠ 0) (hh : s.cfgHQ ≠ 0) :
    s.lastPixel = (s.x == s.cfgWQ - 1 && s.y == s.cfgHQ - 1) := by
  rw [State.lastPixel, atLast, atLast, if_neg hw, if_neg hh]

/-- Settles O27: EMIT is `transferBeat` and `nextPixel`, and `last` is `lastPixel`. -/
theorem emitCompletesInEveryState : Obligations.EmitCompletesInEveryState := by
  intro s
  refine ⟨s.lastPixel, ?_, State.lastPixel_of_ne_zero⟩
  obtain ⟨hx, hy⟩ := advance_eq s.cfgWQ s.x s.y
  rw [← hx, ← hy]
  rfl

/-- An image is at most as large as its dimensions allow (R157). -/
theorem area_le {c : Config} (w h : BitVec c.dimW) : w.toNat * h.toNat ≤ (2 ^ c.dimW - 1) ^ 2 := by
  rw [Nat.pow_two]
  exact Nat.mul_le_mul (Nat.le_sub_one_of_lt w.isLt) (Nat.le_sub_one_of_lt h.isLt)

/-- The largest image's number of pixels fits the index counter (R157). -/
theorem largest_area_lt (c : Config) : (2 ^ c.dimW - 1) ^ 2 < 2 ^ c.idxW := by
  rw [Config.idxW, Nat.mul_comm, Nat.pow_mul]
  exact Nat.pow_lt_pow_left (Nat.sub_one_lt (Nat.two_pow_pos _).ne') two_ne_zero

theorem area_lt {c : Config} (w h : BitVec c.dimW) : w.toNat * h.toNat < 2 ^ c.idxW :=
  (area_le w h).trans_lt (largest_area_lt c)

section InsideImage

variable {s : State} (h : InsideImage s)

include h

/-- Inside the image the counters of the next pixel do not wrap (R149, R157). -/
theorem nextPixel_toNat :
    (s.nextPixel.x.toNat = if s.x.toNat + 1 < s.cfgWQ.toNat then s.x.toNat + 1 else 0) ∧
      (s.nextPixel.y.toNat = if s.x.toNat + 1 < s.cfgWQ.toNat then s.y.toNat else s.y.toNat + 1) ∧
      s.nextPixel.idx.toNat = s.idx.toNat + 1 := by
  have hidx : s.idx.toNat + 1 < 2 ^ s.conf.idxW :=
    (Nat.succ_le_of_lt (idx_lt_of_insideImage h)).trans_lt (area_lt s.cfgWQ s.cfgHQ)
  have hH := s.cfgHQ.isLt
  obtain ⟨-, -, hx, hy, -⟩ := h
  obtain ⟨hx', hy'⟩ := advance_toNat hx (y := s.y) (by omega)
  exact ⟨hx', hy', toNat_add_one_of_lt hidx⟩

/-- Inside the image `last` holds at column W - 1 of row H - 1 (R148). -/
theorem lastPixel_of_insideImage :
    s.lastPixel = decide (s.x.toNat + 1 = s.cfgWQ.toNat ∧ s.y.toNat + 1 = s.cfgHQ.toNat) := by
  obtain ⟨hw, hh, -, -, -⟩ := h
  rw [State.lastPixel, atLast_eq hw, atLast_eq hh, Bool.decide_and]

/-- EMIT leads to DONE after the last pixel and to FETCH before it (R148). -/
theorem nextPixel_phase_of_insideImage :
    s.nextPixel.phase =
      if s.x.toNat + 1 = s.cfgWQ.toNat ∧ s.y.toNat + 1 = s.cfgHQ.toNat then .done else .fetch := by
  rw [State.nextPixel_phase, lastPixel_of_insideImage h]
  simp only [decide_eq_true_eq]

theorem done_nextPixel_iff :
    s.nextPixel.done = true ↔ s.x.toNat + 1 = s.cfgWQ.toNat ∧ s.y.toNat + 1 = s.cfgHQ.toNat :=
  State.done_iff_of_phase (nextPixel_phase_of_insideImage h)

theorem busy_nextPixel_iff :
    s.nextPixel.busy = true ↔ ¬(s.x.toNat + 1 = s.cfgWQ.toNat ∧ s.y.toNat + 1 = s.cfgHQ.toNat) :=
  State.busy_iff_of_phase (nextPixel_phase_of_insideImage h)

/-- After the last pixel the position is column 0 of row H, and the index the number of pixels (R148). -/
theorem passFinished_nextPixel (hcol : s.x.toNat + 1 = s.cfgWQ.toNat) (hrow : s.y.toNat + 1 = s.cfgHQ.toNat) :
    PassFinished s.nextPixel := by
  obtain ⟨hx, hy, hi⟩ := nextPixel_toNat h
  obtain ⟨hw, hh, -, -, hidx⟩ := h
  rw [if_neg (by omega)] at hx hy
  have harea : s.idx.toNat + 1 = s.cfgWQ.toNat * s.cfgHQ.toNat := by
    rw [← hrow, hidx, Nat.mul_succ, Nat.mul_comm s.y.toNat]
    omega
  refine ⟨hi.trans harea, ?_, .inr ⟨Nat.mul_pos hw hh, BitVec.eq_of_toNat_eq hx, ?_⟩⟩
  · rw [hi, hx, hy, hrow, harea]
    exact Nat.mul_comm _ _
  · exact BitVec.eq_of_toNat_eq (hy.trans hrow)

/-- Before the last pixel EMIT stays inside the image. -/
theorem insideImage_nextPixel (hlast : ¬(s.x.toNat + 1 = s.cfgWQ.toNat ∧ s.y.toNat + 1 = s.cfgHQ.toNat)) :
    InsideImage s.nextPixel := by
  obtain ⟨hx, hy, hi⟩ := nextPixel_toNat h
  obtain ⟨hw, hh, hxw, hyh, hidx⟩ := h
  have hpos : s.nextPixel.x.toNat < s.cfgWQ.toNat ∧ s.nextPixel.y.toNat < s.cfgHQ.toNat ∧
      s.nextPixel.idx.toNat = s.nextPixel.y.toNat * s.cfgWQ.toNat + s.nextPixel.x.toNat := by
    rw [hx, hy, hi]
    split
    · next hcol => exact ⟨hcol, hyh, by omega⟩
    · next hcol => exact ⟨hw, by omega, by rw [Nat.succ_mul]; omega⟩
  exact ⟨hw, hh, hpos⟩

/-- The counters of the next pixel, as the numbers they hold (R149). -/
theorem nextPixel_eq_ofNat :
    s.nextPixel = { s with
      x := if s.x.toNat + 1 < s.cfgWQ.toNat then BitVec.ofNat _ (s.x.toNat + 1) else 0
      y := if s.x.toNat + 1 < s.cfgWQ.toNat then s.y else BitVec.ofNat _ (s.y.toNat + 1)
      idx := BitVec.ofNat _ (s.idx.toNat + 1)
      phase := if s.x.toNat + 1 = s.cfgWQ.toNat ∧ s.y.toNat + 1 = s.cfgHQ.toNat then .done else .fetch } := by
  have hphase := nextPixel_phase_of_insideImage h
  obtain ⟨-, -, hxw, -, -⟩ := h
  have hW := s.cfgWQ.isLt
  have hcol : s.x + 1 < s.cfgWQ ↔ s.x.toNat + 1 < s.cfgWQ.toNat := by
    rw [BitVec.lt_def, toNat_add_one_of_lt (by omega)]
  obtain ⟨hx, hy⟩ := advance_eq s.cfgWQ s.x s.y
  simp only [hcol] at hx hy
  simp only [ofNat_toNat_add_one, ← hx, ← hy, ← hphase]
  rfl

end InsideImage

/-- Settles O42: the position is inside the image, and the image inside the largest one. -/
theorem noCounterOverflows : Obligations.NoCounterOverflows := by
  intro s hin
  have hidx := idx_lt_of_insideImage hin
  obtain ⟨-, -, hx, hy, -⟩ := hin
  exact ⟨hx, hy, hidx, area_le s.cfgWQ s.cfgHQ, largest_area_lt s.conf⟩

/-- Settles O28: the counters in exact arithmetic by `nextPixel_toNat`, the phase by
`done_nextPixel_iff`, and the position in DONE by `passFinished_nextPixel`. -/
theorem emitTransfersAndAdvances : Obligations.EmitTransfersAndAdvances := by
  intro s
  refine ⟨State.fetched_emit_iff, fun hin => ?_⟩
  have hbeat : InsideImage s.transferBeat := hin
  obtain ⟨hx, hy, hi⟩ := nextPixel_toNat hbeat
  refine ⟨s.transferBeat.nextPixel, nextPixel_eq_ofNat hbeat, exec_emit s, hi, busy_nextPixel_iff hbeat,
    done_nextPixel_iff hbeat, fun hdone => ?_⟩
  obtain ⟨hcol, hrow⟩ := (done_nextPixel_iff hbeat).1 hdone
  obtain ⟨hall, -⟩ := passFinished_nextPixel hbeat hcol hrow
  have hend : ¬s.transferBeat.x.toNat + 1 < s.transferBeat.cfgWQ.toNat := by omega
  rw [if_neg hend] at hx hy
  exact ⟨hx, hy.trans hrow, hall⟩

/-! ### What a step does, phase by phase -/

/-- Everything a step can do, with the phase an operation is selected in: the last two cases, a wait and a
datapath line, write no register. -/
theorem step_cases_by_phase {s t : State} (h : step s = .next t) :
    (s.fetched = .reset ∧ t = s.clearRegisters.nextLine) ∨
    (s.fetched = .start ∧ (s.phase = .idle ∨ s.phase = .done) ∧ t = s.openPass.nextLine) ∨
    (s.fetched = .fetch ∧ s.phase = .fetch ∧
      t = (s.holdWord (pack1 s.inp.pixR s.inp.pixG s.inp.pixB)).nextLine) ∨
    (s.fetched = .emit ∧ s.phase = .emit ∧ t = s.transferBeat.nextPixel.nextLine) ∨
    t = s.nextLine ∨ ∃ r, t = (s.showResult r).nextLine := by
  obtain hreset | ⟨hf, ht⟩ | ⟨-, ht⟩ | ⟨hf, ht⟩ | ⟨hf, ht⟩ | ⟨-, ht⟩ := step_cases h
  · exact .inl hreset
  · obtain ⟨-, -, hp⟩ := State.reads_of_fetched_start hf
    exact .inr (.inl ⟨hf, hp, ht⟩)
  · exact .inr (.inr (.inr (.inr (.inl ht))))
  · obtain ⟨-, -, hp⟩ := State.reads_of_fetched_fetch hf
    exact .inr (.inr (.inl ⟨hf, hp, ht⟩))
  · obtain ⟨-, -, hp⟩ := State.reads_of_fetched_emit hf
    exact .inr (.inr (.inr (.inl ⟨hf, hp, ht⟩)))
  · exact .inr (.inr (.inr (.inr (.inr ht))))

/-- Settles O34: FETCH and EMIT read neither `start` nor the configuration, and of the operations a busy
state can select RESET alone writes a latch or leads to IDLE. -/
theorem startIsIgnoredWhileBusy : Obligations.StartIsIgnoredWhileBusy := by
  intro s hbusy
  have hphase := s.busy_iff.1 hbusy
  refine ⟨fun hedge => ?_, fun i b sw w h ls => ?_, fun t hstep hreset => ?_⟩
  · rw [State.fetched_at_edge hedge]
    obtain hp | hp := hphase
    · rw [hp]; split_ifs <;> simp
    · rw [hp]; split_ifs <;> simp
  · refine unreadInputsHaveNoEffect s i _ ls ⟨rfl, fun _ => ?_⟩
    obtain hp | hp := hphase
    · rw [hp]; exact ⟨rfl, fun _ => ⟨rfl, rfl, rfl⟩⟩
    · rw [hp]
  · have hrun : s.phase ≠ .idle := by rintro hp; simp [hp] at hphase
    obtain ⟨hf, -⟩ | ⟨-, hp, -⟩ | ⟨-, -, rfl⟩ | ⟨-, -, rfl⟩ | rfl | ⟨r, rfl⟩ := step_cases_by_phase hstep
    · exact absurd hf hreset
    · rcases hp with hp | hp <;> simp [hp] at hphase
    · exact ⟨nofun, rfl, rfl, rfl⟩
    · exact ⟨s.transferBeat.nextPixel_phase_ne.1, rfl, rfl, rfl⟩
    · exact ⟨hrun, rfl, rfl, rfl⟩
    · exact ⟨hrun, rfl, rfl, rfl⟩

/-! ### The position invariant (R158) -/

theorem insideImage_of_emit {s : State} (h : PositionInv s) (hp : s.phase = .emit) : InsideImage s := by
  obtain ⟨-, hrun, -⟩ := h
  exact hrun (.inr hp)

theorem positionInv_clearRegisters (s : State) : PositionInv s.clearRegisters :=
  ⟨fun _ => ⟨rfl, rfl, rfl, rfl, rfl, rfl, rfl⟩, fun hp => by simp at hp, nofun⟩

/-- Settles O39: the reset state is one whose registers have been cleared. -/
theorem positionInvariantAtReset : Obligations.PositionInvariantAtReset := fun c =>
  positionInv_clearRegisters (State.resetOf c)

/-- An opened pass stands at the origin of its image, or is finished where the image is empty (R142, R143). -/
theorem positionInv_openPass (s : State) : PositionInv s.openPass := by
  have hphase := s.openPass_phase_eq
  split at hphase
  · next hempty =>
    have harea : s.inp.cfgWidth.toNat * s.inp.cfgHeight.toNat = 0 :=
      Nat.mul_eq_zero.2 (hempty.imp (congrArg BitVec.toNat) (congrArg BitVec.toNat))
    rw [PositionInv, hphase]
    exact ⟨nofun, by simp, fun _ => ⟨harea.symm, by simp, .inl ⟨harea, rfl, rfl⟩⟩⟩
  · next hsome =>
    obtain ⟨hw, hh⟩ := not_or.1 hsome
    have hw0 : 0 < s.inp.cfgWidth.toNat := Nat.pos_of_ne_zero fun h => hw (BitVec.eq_of_toNat_eq h)
    have hh0 : 0 < s.inp.cfgHeight.toNat := Nat.pos_of_ne_zero fun h => hh (BitVec.eq_of_toNat_eq h)
    rw [PositionInv, hphase]
    exact ⟨nofun, fun _ => ⟨hw0, hh0, hw0, hh0, by simp⟩, nofun⟩

theorem positionInv_holdWord {s : State} (h : PositionInv s) (hp : s.phase = .fetch) (w : Word) :
    PositionInv (s.holdWord w) := by
  obtain ⟨-, hrun, -⟩ := h
  exact ⟨nofun, fun _ => hrun (.inl hp), nofun⟩

/-- EMIT inside the image ends the pass after the last pixel and stays inside before it. -/
theorem positionInv_nextPixel {s : State} (h : InsideImage s) : PositionInv s.nextPixel := by
  have hphase := nextPixel_phase_of_insideImage h
  split at hphase
  · next hlast =>
    rw [PositionInv, hphase]
    exact ⟨nofun, by simp, fun _ => passFinished_nextPixel h hlast.1 hlast.2⟩
  · next hlast =>
    rw [PositionInv, hphase]
    exact ⟨nofun, fun _ => insideImage_nextPixel h hlast, nofun⟩

/-- R158's invariant is kept by each operation in the phase that selects it. -/
theorem positionInv_of_step {s t : State} (h : PositionInv s) (hstep : step s = .next t) :
    PositionInv t := by
  obtain ⟨-, rfl⟩ | ⟨-, -, rfl⟩ | ⟨-, hp, rfl⟩ | ⟨-, hp, rfl⟩ | rfl | ⟨r, rfl⟩ := step_cases_by_phase hstep
  · exact positionInv_clearRegisters s
  · exact positionInv_openPass s
  · exact positionInv_holdWord h hp _
  · exact positionInv_nextPixel (s := s.transferBeat) (insideImage_of_emit h hp)
  · exact h
  · exact h

/-- Settles O40: the invariant by `positionInv_of_step`, and IDLE by the phases of `step_cases_by_phase`. -/
theorem stepKeepsPositionInvariant : Obligations.StepKeepsPositionInvariant := by
  intro s t hinv hstep
  refine ⟨positionInv_of_step hinv hstep, ?_⟩
  obtain ⟨hf, rfl⟩ | ⟨hf, -, rfl⟩ | ⟨-, hp, rfl⟩ | ⟨-, hp, rfl⟩ | rfl | ⟨r, rfl⟩ := step_cases_by_phase hstep
  · exact ⟨fun _ hleft => absurd rfl hleft, fun _ _ => hf⟩
  · exact ⟨fun _ _ => hf, fun _ hp => absurd hp s.openPass_phase_ne.1⟩
  · exact ⟨fun hidle => absurd (hp.symm.trans hidle) nofun, nofun⟩
  · exact ⟨fun hidle => absurd (hp.symm.trans hidle) nofun,
      fun _ hq => absurd hq s.transferBeat.nextPixel_phase_ne.1⟩
  · exact ⟨fun hp hne => absurd hp hne, fun hne hp => absurd hp hne⟩
  · exact ⟨fun hp hne => absurd hp hne, fun hne hp => absurd hp hne⟩

/-- Settles O41, by induction on the run: a RESET edge clears the registers, and every step keeps the
invariant. -/
theorem launchedStatesMeetPositionInvariant : Obligations.LaunchedStatesMeetPositionInvariant := by
  intro s hrun
  induction hrun with
  | afterReset s t hf hstep =>
    rw [step_of_fetched hf, exec_reset, finishStep_next] at hstep
    cases hstep
    exact positionInv_clearRegisters s
  | afterStep s t _ hstep ih => exact positionInv_of_step ih hstep

/-- Settles O44: FETCH alone enters EMIT and keeps the index; EMIT is left by RESET or by its transfer, whose
index does not wrap inside the image. -/
theorem onePixelInTheBlockAtATime : Obligations.OnePixelInTheBlockAtATime := by
  intro s t hinv hstep
  have hfetch : s.phase = .emit → s.fetched ≠ .fetch := fun hp hf => by
    obtain ⟨-, -, hq⟩ := State.reads_of_fetched_fetch hf
    exact absurd (hp.symm.trans hq) nofun
  refine (and_left_comm ..).1 ⟨hfetch, ?_⟩
  obtain ⟨hf, rfl⟩ | ⟨-, hp, rfl⟩ | ⟨hf, hp, rfl⟩ | ⟨hf, hp, rfl⟩ | rfl | ⟨r, rfl⟩ := step_cases_by_phase hstep
  · exact ⟨nofun, fun _ _ hne => absurd hf hne⟩
  · exact ⟨fun _ hq => absurd hq s.openPass_phase_ne.2,
      fun hq => by rcases hp with hp | hp <;> exact absurd (hp.symm.trans hq) nofun⟩
  · exact ⟨fun _ _ => ⟨hf, rfl⟩, fun hq => absurd (hp.symm.trans hq) nofun⟩
  · obtain ⟨-, -, hidx⟩ := nextPixel_toNat (s := s.transferBeat) (insideImage_of_emit hinv hp)
    exact ⟨fun hne => absurd hp hne, fun _ _ _ => ⟨hf, hidx, s.transferBeat.nextPixel_phase_cases.symm⟩⟩
  · exact ⟨fun hne hp => absurd hp hne, fun hp hne => absurd hp hne⟩
  · exact ⟨fun hne hp => absurd hp hne, fun hp hne => absurd hp hne⟩

/-! ### The pass invariant (R151) -/

theorem passInv_openPass (img : Image) (s : State) : PassInv img s.openPass :=
  ⟨fun _ => rfl, fun hp => absurd hp s.openPass_phase_ne.2⟩

theorem passInv_holdWord {img : Image} {s : State} (h : PassInv img s) (hp : s.phase = .fetch) :
    PassInv img (s.holdWord (packPixel (img s.pixX.toNat s.pixY.toNat))) := by
  obtain ⟨hstream, -⟩ := h
  exact ⟨fun _ => hstream (by rw [hp]; nofun), fun _ => rfl⟩

/-- EMIT's beat is the next one of the contract: the held word is that of the pixel of index `idx`. -/
theorem passInv_emit {img : Image} {s : State} (hin : InsideImage s) (h : PassInv img s)
    (hp : s.phase = .emit) : PassInv img s.transferBeat.nextPixel := by
  obtain ⟨hstream, hwreg⟩ := h
  obtain ⟨hx, hy⟩ := position_of_insideImage hin
  obtain ⟨-, -, hi⟩ := nextPixel_toNat (s := s.transferBeat) hin
  have hbeat : ⟨s.outIndex.toNat, s.outData⟩ = beatOf img s.cfgWQ.toNat s.cfgSwapQ s.idx.toNat := by
    rw [beatOf, ← hx, ← hy, ← hwreg hp]
    rfl
  refine ⟨fun _ => ?_, fun hq => absurd hq s.transferBeat.nextPixel_phase_ne.2⟩
  rw [State.nextPixel_stream, State.transferBeat_stream, hbeat, hstream (by rw [hp]; nofun), hi]
  exact (beatsUpTo_succ ..).symm

/-- Settles O45: the opened pass has no beat and index 0, whatever the image. -/
theorem startOpensAPassOverAnyImage : Obligations.StartOpensAPassOverAnyImage := by
  intro img s t hf hstep
  rw [step_of_fetched hf, exec_start, finishStep_next] at hstep
  cases hstep
  exact passInv_openPass img s

/-- Settles O46: FETCH captures the pixel the host shows at (x, y) (H-IMG), and EMIT transfers its beat. -/
theorem stepKeepsPassInvariant : Obligations.StepKeepsPassInvariant := by
  intro img s t hpos hpass hshows hstep
  obtain ⟨-, rfl⟩ | ⟨-, -, rfl⟩ | ⟨hf, hp, rfl⟩ | ⟨-, hp, rfl⟩ | rfl | ⟨r, rfl⟩ := step_cases_by_phase hstep
  · exact ⟨fun hne => absurd rfl hne, nofun⟩
  · exact passInv_openPass img s
  · obtain ⟨-, hvalid, -⟩ := State.reads_of_fetched_fetch hf
    obtain ⟨hr, hg, hb⟩ := hshows (State.atEdge_of_fetched hf rfl) (s.pixReq_iff.2 hp) hvalid
    have hheld := passInv_holdWord hpass hp
    rw [hr, hg, hb]
    exact hheld
  · exact passInv_emit (insideImage_of_emit hpos hp) hpass hp
  · exact hpass
  · exact hpass

/-- Settles O47: in DONE the index is the number of pixels, and the stream is as long as the index says. -/
theorem doneMeansTheStreamIsComplete : Obligations.DoneMeansTheStreamIsComplete := by
  rintro img s ⟨-, -, hfinished⟩ ⟨hstream, -⟩ hdone
  have hp := s.done_iff.1 hdone
  obtain ⟨hall, -⟩ := hfinished hp
  have hbeats := hstream (by rw [hp]; nofun)
  rw [hall] at hbeats
  refine ⟨hall, hbeats, ?_⟩
  rw [hbeats, byteStream_beatsUpTo, List.length_map, List.length_range, Nat.mul_assoc]

/-! ### The pass contract (R151 to R153, R211) -/

/-- A run goes on from where its first steps lead. -/
theorem runSteps_add {a b : Nat} {s t : State} (h : runSteps a s = .next t) :
    runSteps (a + b) s = runSteps b t := by
  induction a generalizing s with
  | zero => cases h; rw [Nat.zero_add]
  | succ a ih =>
    rw [Nat.succ_add]
    cases hstep : step s with
    | next u => rw [runSteps_succ hstep] at h ⊢; exact ih h
    | fault f => rw [runSteps, hstep] at h; cases h
    | refused r => rw [runSteps, hstep] at h; cases h

theorem State.phase_of_not_busy {s : State} (h : s.busy = false) : s.phase = .idle ∨ s.phase = .done := by
  have hrun := mt s.busy_iff.2 (Bool.not_eq_true _ ▸ h)
  cases hp : s.phase <;> simp [hp] at hrun ⊢

/-- A START edge where no pass is running agrees, where it is read, with the START line of the same
configuration (R92). -/
theorem agreeWhereRead_stimulus_start (img : Image) {s : State} {i : Inputs s.conf} (hbusy : s.busy = false)
    (hrst : i.rst = false) (hstart : i.start = true) :
    AgreeWhereRead s.phase i
      (s.stimulus img ⟨.start i.cfgWidth.toNat i.cfgHeight.toNat i.cfgSwap.toNat, false, false⟩) := by
  have hwidth : i.cfgWidth = BitVec.ofNat _ i.cfgWidth.toNat := by simp
  have hheight : i.cfgHeight = BitVec.ofNat _ i.cfgHeight.toNat := by simp
  have hswap : i.cfgSwap = (i.cfgSwap.toNat == 1) := by cases i.cfgSwap <;> rfl
  refine ⟨by rw [hrst, State.stimulus_rst, nibble_start]; rfl, fun _ => ?_⟩
  rcases s.phase_of_not_busy hbusy with hp | hp <;> rw [hp] <;>
    exact ⟨by rw [hstart, State.stimulus_start, nibble_start]; rfl, fun _ => ⟨hwidth, hheight, hswap⟩⟩

section Contract

variable {img : Image} {s : State} {w h : Nat} {swap : Bool}

/-- A START edge where no pass is running opens the pass of the ports' configuration. -/
theorem step_start_inPass (img : Image) (i : Inputs s.conf) (ls : List (Line s.conf)) (hbusy : s.busy = false)
    (hrst : i.rst = false) (hstart : i.start = true) :
    step (withPending s (.edge i :: ls)) =
      .next ((withPending s ls).inPass img i.cfgWidth.toNat i.cfgHeight.toNat i.cfgSwap 0
        (passPhase i.cfgWidth.toNat i.cfgHeight.toNat 0) s.wreg 1) := by
  have hopens := step_drive_start_inPass (img := img) (s := withPending s ls) i.cfgSwap.toNat
    i.cfgWidth.isLt i.cfgHeight.isLt hbusy
  have hswap : (i.cfgSwap.toNat == 1) = i.cfgSwap := by cases i.cfgSwap <;> rfl
  rw [hswap] at hopens
  exact (unreadInputsHaveNoEffect s i _ ls
    (agreeWhereRead_stimulus_start img (s := withPending s ls) hbusy hrst hstart)).trans hopens

/-- Edges that leave a handshake of the pass unanswered only pass by. -/
theorem runSteps_waits_inPass {n : Nat} {p : Phase} (v : Word) (k : Nat) (is : List (Inputs s.conf))
    (ls : List (Line s.conf)) (hwait : ∀ i ∈ is, WaitsAt p i) :
    runSteps is.length ((withPending s (is.map Line.edge ++ ls)).inPass img w h swap n p v k) =
      .next ((withPending s ls).inPass img w h swap n p v (k + is.length)) := by
  have hrun := runSteps_of_waitsAt (s.inPass img w h swap n p v k) is ls (s.edges + k) hwait
  rw [Nat.add_assoc] at hrun
  exact hrun

section Pixel

variable {n : Nat} (hn : n < w * h) (hw : w < 2 ^ s.conf.dimW) (hh : h < 2 ^ s.conf.dimW)

include hn hw hh

/-- The edge that answers the request of pixel n: its word is held. -/
theorem step_fetchEdge_inPass {i : Inputs s.conf} (v : Word) (k : Nat) (ls : List (Line s.conf))
    (hrst : i.rst = false) (hvalid : i.pixValid = true) (hr : i.pixR = (img (n % w) (n / w)).r)
    (hg : i.pixG = (img (n % w) (n / w)).g) (hb : i.pixB = (img (n % w) (n / w)).b) :
    step ((withPending s (.edge i :: ls)).inPass img w h swap n .fetch v k) =
      .next ((withPending s ls).inPass img w h swap n .emit (packPixel (img (n % w) (n / w))) (k + 1)) := by
  have hserve := step_drive_serve_inPass_fetch (s := withPending s ls) (img := img) (swap := swap) hn hw hh v k
  refine (unreadInputsHaveNoEffect (s.inPass img w h swap n .fetch v k) i _ ls ?_).trans hserve
  obtain ⟨hx, hy⟩ := inPass_position_toNat (img := img) (swap := swap) hn hw hh .fetch v k
  rw [← hx, ← hy] at hr hg hb
  exact ⟨hrst, fun _ => ⟨hvalid, fun _ => ⟨hr, hg, hb⟩⟩⟩

/-- The edge that takes the beat of pixel n. -/
theorem step_emitEdge_inPass {i : Inputs s.conf} (k : Nat) (ls : List (Line s.conf))
    (hrst : i.rst = false) (hready : i.outReady = true) :
    step ((withPending s (.edge i :: ls)).inPass img w h swap n .emit (packPixel (img (n % w) (n / w))) k) =
      .next ((withPending s ls).inPass img w h swap (n + 1) (passPhase w h (n + 1))
        (packPixel (img (n % w) (n / w))) (k + 1)) := by
  have hserve := step_drive_serve_inPass_emit (s := withPending s ls) (img := img) (swap := swap) hn hw hh k
  refine (unreadInputsHaveNoEffect
    (s.inPass img w h swap n .emit (packPixel (img (n % w) (n / w))) k) i _ ls ?_).trans hserve
  exact ⟨hrst, fun _ => hready⟩

/-- The edges of one service take the pass from pixel n to the next, or to its end. -/
theorem runSteps_service_inPass {sv : Service s.conf} (hserves : sv.serves (img (n % w) (n / w))) (v : Word)
    (k : Nat) (ls : List (Line s.conf)) :
    ∃ (v' : Word) (k' : Nat), runSteps (sv.fetchWaits.length + sv.emitWaits.length + 2)
        ((withPending s (sv.inputs.map Line.edge ++ ls)).inPass img w h swap n .fetch v k) =
      .next ((withPending s ls).inPass img w h swap (n + 1) (passPhase w h (n + 1)) v' k') := by
  obtain ⟨hfw, ⟨hfrst, hvalid, hr, hg, hb⟩, hew, herst, hready⟩ := hserves
  have hlines : sv.inputs.map Line.edge ++ ls = sv.fetchWaits.map Line.edge ++
      .edge sv.fetchEdge :: (sv.emitWaits.map Line.edge ++ .edge sv.emitEdge :: ls) := by
    simp [Service.inputs]
  have hfetchWaits : ∀ i ∈ sv.fetchWaits, WaitsAt .fetch i := fun i hi =>
    (hfw i hi).imp_right fun hno => .inl ⟨rfl, hno⟩
  have hemitWaits : ∀ i ∈ sv.emitWaits, WaitsAt .emit i := fun i hi =>
    (hew i hi).imp_right fun hno => .inr ⟨rfl, hno⟩
  refine ⟨packPixel (img (n % w) (n / w)), k + sv.fetchWaits.length + 1 + sv.emitWaits.length + 1, ?_⟩
  rw [hlines, show sv.fetchWaits.length + sv.emitWaits.length + 2 =
      sv.fetchWaits.length + (sv.emitWaits.length + 1 + 1) by omega,
    runSteps_add (runSteps_waits_inPass v k _ _ hfetchWaits),
    runSteps_succ (step_fetchEdge_inPass hn hw hh _ _ _ hfrst hvalid hr hg hb),
    runSteps_add (runSteps_waits_inPass _ _ _ _ hemitWaits),
    runSteps_succ (step_emitEdge_inPass hn hw hh _ _ herst hready)]
  rfl

end Pixel

/-- The services of the pixels from n on lead to DONE, by induction on the services left. -/
theorem runSteps_services_inPass (hw : w < 2 ^ s.conf.dimW) (hh : h < 2 ^ s.conf.dimW)
    (vs : List (Service s.conf)) (n : Nat) (hlen : n + vs.length = w * h)
    (hserves : ∀ j (hj : j < vs.length), (vs[j]).serves (img ((n + j) % w) ((n + j) / w))) (v : Word)
    (k : Nat) (ls : List (Line s.conf)) :
    ∃ (v' : Word) (k' : Nat),
      runSteps (2 * vs.length + (vs.map fun sv => sv.fetchWaits.length + sv.emitWaits.length).sum)
        ((withPending s ((vs.flatMap Service.inputs).map Line.edge ++ ls)).inPass img w h swap n
          (passPhase w h n) v k) =
      .next ((withPending s ls).inPass img w h swap (w * h) .done v' k') := by
  induction vs generalizing n v k with
  | nil =>
    obtain rfl : n = w * h := hlen
    exact ⟨v, k, by rw [passPhase, if_pos rfl]; rfl⟩
  | cons sv vs ih =>
    rw [List.length_cons] at hlen
    have hn : n < w * h := by omega
    have hsv : sv.serves (img (n % w) (n / w)) := hserves 0 (Nat.succ_pos _)
    obtain ⟨v₁, k₁, hfirst⟩ := runSteps_service_inPass (swap := swap) hn hw hh hsv v k
      ((vs.flatMap Service.inputs).map Line.edge ++ ls)
    obtain ⟨v₂, k₂, hrest⟩ := ih (n + 1) (by omega) (fun j hj => by
      have hnext := hserves (j + 1) (Nat.succ_lt_succ hj)
      rwa [List.getElem_cons_succ, ← Nat.add_assoc, Nat.add_right_comm] at hnext) v₁ k₁
    refine ⟨v₂, k₂, ?_⟩
    rw [List.flatMap_cons, List.map_append, List.append_assoc, List.map_cons, List.sum_cons, List.length_cons,
      show ∀ a b c : Nat, 2 * (a + 1) + (b + c) = b + 2 + (2 * a + c) by omega, passPhase, if_neg hn.ne,
      runSteps_add hfirst, hrest]

end Contract

/-- Settles O49: the START edge opens the pass (`step_start_inPass`), the services take it to DONE
(`runSteps_services_inPass`), and the bytes of its beats are those of S (`streamBytesAreThoseOfTheImage`). -/
theorem passContract : Obligations.PassContract := by
  intro img s i vs ls hbusy hrst hstart ⟨hlen, hserves⟩ hpend
  have hopens := step_start_inPass img i ((vs.flatMap Service.inputs).map Line.edge ++ ls) hbusy hrst hstart
  obtain ⟨v, k, hrun⟩ := runSteps_services_inPass (img := img) (swap := i.cfgSwap) i.cfgWidth.isLt
    i.cfgHeight.isLt vs 0 ((Nat.zero_add _).trans hlen) (by simpa using hserves) s.wreg 1 ls
  have hoffered : s = withPending s (.edge i :: ((vs.flatMap Service.inputs).map Line.edge ++ ls)) := by
    rw [withPending, ← List.cons_append, ← List.map_cons, ← hpend]
  rw [← hoffered] at hopens
  rw [hlen] at hrun
  have hbytes := streamBytesAreThoseOfTheImage img i.cfgWidth.toNat
    (i.cfgWidth.toNat * i.cfgHeight.toNat) i.cfgSwap
  obtain ⟨hlength, -⟩ := hbytes 0
  rw [Nat.mul_assoc]
  refine ⟨(withPending s ls).inPass img i.cfgWidth.toNat i.cfgHeight.toNat i.cfgSwap
    (i.cfgWidth.toNat * i.cfgHeight.toNat) .done v k, ?_, rfl, rfl, hlength, fun j hj => ?_,
    Nat.mod_eq_of_lt (area_lt i.cfgWidth i.cfgHeight), Nat.mod_eq_of_lt i.cfgWidth.isLt,
    Nat.mod_eq_of_lt i.cfgHeight.isLt, rfl, HEq.rfl, rfl⟩
  · rw [Nat.add_comm, runSteps_succ hopens, hrun]
  · obtain ⟨-, hbelow, -⟩ := hbytes j
    exact (hbelow hj).1

end Sys2Proof.Machine
end

section
/-! PROOFS. The statements of `60_exceptions.md`: no step faults (R180), and which operation wins when several
inputs are active at one edge (R184). -/

namespace Sys2Proof.Machine

/-! ### No fault and no refusal (R180) -/

/-- `exec` answers a next state for every operation, from every state. -/
theorem exec_total (i : Instr) (s : State) : ∃ t, exec i s = .next t := by
  cases i with
  | reset => exact ⟨_, exec_reset s⟩
  | start => exact ⟨_, exec_start s⟩
  | hold => exact ⟨s, rfl⟩
  | fetch => exact ⟨_, exec_fetch s⟩
  | fetchWait => exact ⟨s, rfl⟩
  | emit => exact ⟨_, exec_emit s⟩
  | emitWait => exact ⟨s, rfl⟩
  | quantize r g b => exact ⟨_, exec_quantize r g b s⟩
  | pack565 r5 g6 b5 => exact ⟨_, exec_pack565 r5 g6 b5 s⟩
  | bytemux swap word => exact ⟨_, exec_bytemux swap word s⟩

/-- Settles O32: the fetched operation answers a next state, and the step only moves the host on. -/
theorem everyStepGoesOn : Obligations.EveryStepGoesOn := by
  intro s
  obtain ⟨t, hexec⟩ := exec_total s.fetched s
  exact ⟨t.nextLine, by rw [step_of_fetched rfl, hexec, finishStep_next]⟩

/-! ### Priority of the inputs (R184) -/

/-- Settles O6: `State.fetched_at_edge` tests `rst` first, then in each phase the one port that phase reads. -/
theorem inputPriorityAtAnEdge : Obligations.InputPriorityAtAnEdge := by
  intro s hedge
  refine ⟨(State.fetched_reset_iff hedge).2, ?_, ?_, ?_⟩
  · rintro hrst (hp | hp) <;> simp [State.fetched_at_edge hedge, hrst, hp]
  · intro hrst hp
    simp [State.fetched_at_edge hedge, hrst, hp]
  · intro hrst hp
    simp [State.fetched_at_edge hedge, hrst, hp]

end Sys2Proof.Machine
end

section
/-! PROOFS. The statements of `70_reset_and_hazards.md`: a reset during a pass (R203), a held `start` (R206), the
offered beat (R208), and the edges of a pass served without waits (R211). -/

namespace Sys2Proof.Machine

open Sys2Proof.Safety

/-! ### Reset during a pass (R203) -/

/-- An edge with `rst = 1` clears the registers in every phase (R141, R184). -/
theorem step_of_rst {s : State} (hedge : s.atEdge = true) (hrst : s.inp.rst = true) :
    step s = .next s.clearRegisters.nextLine := by
  rw [step_of_fetched ((State.fetched_reset_iff hedge).2 hrst), exec_reset, finishStep_next]

/-- Settles O2: RESET writes registers alone, so the beats stay, and in a busy phase they are as many as the
index says. -/
theorem resetDuringPassAbandonsIt : Obligations.ResetDuringPassAbandonsIt := by
  intro s t hbusy hedge hrst hstep
  cases (step_of_rst hedge hrst).symm.trans hstep
  obtain ⟨hstopped, hnotdone⟩ := s.clearRegisters.nextLine.phase_idle_iff.1 rfl
  refine ⟨rfl, rfl, State.readByte_congr rfl, rfl, rfl, hstopped, hnotdone, fun img ⟨hstream, _⟩ => ?_⟩
  have hrunning : s.phase ≠ .idle := fun hp => by
    obtain ⟨hidle, -⟩ := s.phase_idle_iff.1 hp
    exact absurd (hbusy.symm.trans hidle) nofun
  rw [State.nextLine_stream, State.clearRegisters_stream, hstream hrunning]
  exact (streamBytesAreThoseOfTheImage img _ _ _ 0).1

/-! ### The offered beat (R208) -/

/-- Settles O36: of the operations a step can perform in EMIT, only EMIT and RESET write a register. -/
theorem offeredBeatIsStable : Obligations.OfferedBeatIsStable := by
  intro s t hvalid hemit hreset hstep
  have hphase := s.outValid_iff.1 hvalid
  obtain ⟨hf, -⟩ | ⟨-, hp, -⟩ | ⟨-, hp, -⟩ | ⟨hf, -, -⟩ | rfl | ⟨r, rfl⟩ :=
    step_cases_by_phase hstep
  · exact absurd hf hreset
  · rcases hp with hp | hp <;> exact absurd (hphase.symm.trans hp) nofun
  · exact absurd (hphase.symm.trans hp) nofun
  · exact absurd hf hemit
  · exact ⟨hvalid, rfl, rfl⟩
  · exact ⟨hvalid, rfl, rfl⟩

/-! ### A held `start` (R206) -/

/-- While a pass is running no step is a START (R145). -/
theorem State.fetched_ne_start_of_busy {s : State} (hbusy : s.busy = true) : s.fetched ≠ .start := fun hf => by
  obtain ⟨-, -, hp⟩ := State.reads_of_fetched_start hf
  rcases hp with hp | hp <;> simp [s.busy_iff, hp] at hbusy

/-- Settles O37: DONE selects START, which opens a pass; where the pass is not empty it is then running. -/
theorem heldStartRunsAgain : Obligations.HeldStartRunsAgain := by
  intro s hedge hrst hstart hdone
  have hf : s.fetched = .start := (State.fetched_start_iff hedge).2 ⟨hrst, hstart, .inr (s.done_iff.1 hdone)⟩
  refine ⟨s.openPass.nextLine, by rw [step_of_fetched hf, exec_start, finishStep_next], rfl, rfl, rfl,
    fun hw hh => ?_⟩
  have hbusy : s.openPass.nextLine.busy = true :=
    (State.busy_iff_of_phase s.openPass_phase_eq).2 (not_or.2 ⟨hw, hh⟩)
  exact ⟨hbusy, State.fetched_ne_start_of_busy hbusy⟩

/-! ### A pass served without waits (R211) -/

/-- The pixel on the channel ports (R30). -/
def pixelOn {c : Config} (i : Inputs c) : Pixel := ⟨i.pixR, i.pixG, i.pixB, i.pixA⟩

/-- The image a host shows that answers pixel k of a pass of width `w` at edge 2k of `js`: whatever the
channels hold there. -/
def shownImage {c : Config} (js : List (Inputs c)) (w : Nat) : Image := fun x y =>
  pixelOn (js.getD (2 * (x + w * y)) default)

theorem shownImage_mod_div {c : Config} {js : List (Inputs c)} {k : Nat} (w : Nat) (hk : 2 * k < js.length) :
    shownImage js w (k % w) (k / w) = pixelOn js[2 * k] := by
  rw [shownImage, Nat.mod_add_div, List.getD_eq_getElem _ _ hk]

/-- The host's lines from edge `e` of `js` on. -/
def linesFrom {c : Config} (js : List (Inputs c)) (ls : List (Line c)) (e : Nat) : List (Line c) :=
  (js.drop e).map Line.edge ++ ls

theorem linesFrom_eq_cons {c : Config} {js : List (Inputs c)} (ls : List (Line c)) {e : Nat}
    (he : e < js.length) : linesFrom js ls e = .edge js[e] :: linesFrom js ls (e + 1) := by
  rw [linesFrom, List.drop_eq_getElem_cons he]
  rfl

/-- The host answers every request and takes every beat at once, and never resets (R211). -/
def ServesAtOnce {c : Config} (js : List (Inputs c)) : Prop :=
  ∀ j ∈ js, j.rst = false ∧ j.pixValid = true ∧ j.outReady = true

/-- The state in a pass over `shownImage` that START edge `i` opened from `s` and the edges `js` follow, with k
beats transferred and `e` of those edges gone by. -/
def State.inContinuousPass (s : State) (i : Inputs s.conf) (js : List (Inputs s.conf)) (ls : List (Line s.conf))
    (k : Nat) (p : Phase) (v : Word) (e : Nat) : State :=
  (withPending s (linesFrom js ls e)).inPass (shownImage js i.cfgWidth.toNat) i.cfgWidth.toNat i.cfgHeight.toNat
    i.cfgSwap k p v (e + 1)

/-- The word of pixel k of that pass. -/
def shownWord {c : Config} (i : Inputs c) (js : List (Inputs c)) (k : Nat) : Word :=
  packPixel (shownImage js i.cfgWidth.toNat (k % i.cfgWidth.toNat) (k / i.cfgWidth.toNat))

section Continuous

variable {s : State} {i : Inputs s.conf} {js : List (Inputs s.conf)} (ls : List (Line s.conf))

/-- The START edge opens the pass. -/
theorem step_start_inContinuousPass (hbusy : s.busy = false) (hrst : i.rst = false) (hstart : i.start = true)
    (hpend : s.pending = (i :: js).map Line.edge ++ ls) :
    step s = .next (s.inContinuousPass i js ls 0 (passPhase i.cfgWidth.toNat i.cfgHeight.toNat 0) s.wreg 0) := by
  have hopens := step_start_inPass (shownImage js i.cfgWidth.toNat) i (linesFrom js ls 0) hbusy hrst hstart
  have hoffered : withPending s (.edge i :: linesFrom js ls 0) = s := by
    rw [withPending, linesFrom, List.drop_zero, ← List.cons_append, ← List.map_cons, ← hpend]
  rwa [hoffered] at hopens

/-- The operation of the next edge, which the phase alone decides (R184). -/
theorem fetched_inContinuousPass (hserve : ServesAtOnce js) {e : Nat} (he : e < js.length) (k : Nat) (v : Word) :
    (s.inContinuousPass i js ls k .fetch v e).fetched = .fetch ∧
      (s.inContinuousPass i js ls k .emit v e).fetched = .emit := by
  obtain ⟨hrst, hvalid, hready⟩ := hserve _ (List.getElem_mem he)
  have hpend (p : Phase) : (s.inContinuousPass i js ls k p v e).pending = .edge js[e] :: linesFrom js ls (e + 1) :=
    linesFrom_eq_cons ls he
  constructor
  · rw [State.fetched_fetch_iff (State.atEdge_of_pending (hpend _)), State.inp_of_pending (hpend _)]
    exact ⟨hrst, hvalid, rfl⟩
  · rw [State.fetched_emit_iff (State.atEdge_of_pending (hpend _)), State.inp_of_pending (hpend _)]
    exact ⟨hrst, hready, rfl⟩

/-- The index of a pixel of the image fits the index counter (R157). -/
theorem idx_inContinuousPass {k : Nat} (hk : k < i.cfgWidth.toNat * i.cfgHeight.toNat) (p : Phase) (v : Word)
    (e : Nat) : (s.inContinuousPass i js ls k p v e).idx.toNat = k :=
  Nat.mod_eq_of_lt (hk.trans (area_lt i.cfgWidth i.cfgHeight))

section Pixel

variable (hserve : ServesAtOnce js) {k : Nat} (hk : k < i.cfgWidth.toNat * i.cfgHeight.toNat)
  (hlen : js.length = 2 * (i.cfgWidth.toNat * i.cfgHeight.toNat))

include hserve hk hlen

/-- Edge 2k of `js` answers the request of pixel k. -/
theorem step_fetch_inContinuousPass (v : Word) :
    step (s.inContinuousPass i js ls k .fetch v (2 * k)) =
      .next (s.inContinuousPass i js ls k .emit (shownWord i js k) (2 * k + 1)) := by
  have he : 2 * k < js.length := by omega
  obtain ⟨hrst, hvalid, -⟩ := hserve _ (List.getElem_mem he)
  have hshown := shownImage_mod_div i.cfgWidth.toNat he
  rw [State.inContinuousPass, linesFrom_eq_cons ls he]
  exact step_fetchEdge_inPass hk i.cfgWidth.isLt i.cfgHeight.isLt v _ _ hrst hvalid
    (hshown ▸ rfl) (hshown ▸ rfl) (hshown ▸ rfl)

/-- Edge 2k+1 takes its beat. -/
theorem step_emit_inContinuousPass :
    step (s.inContinuousPass i js ls k .emit (shownWord i js k) (2 * k + 1)) =
      .next (s.inContinuousPass i js ls (k + 1) (passPhase i.cfgWidth.toNat i.cfgHeight.toNat (k + 1))
        (shownWord i js k) (2 * (k + 1))) := by
  have he : 2 * k + 1 < js.length := by omega
  obtain ⟨hrst, -, hready⟩ := hserve _ (List.getElem_mem he)
  rw [State.inContinuousPass, linesFrom_eq_cons ls he]
  exact step_emitEdge_inPass hk i.cfgWidth.isLt i.cfgHeight.isLt _ _ hrst hready

end Pixel

/-- After START and 2k edges k pixels have been served, by induction on k. -/
theorem runSteps_inContinuousPass (hserve : ServesAtOnce js)
    (hlen : js.length = 2 * (i.cfgWidth.toNat * i.cfgHeight.toNat))
    (hstart : step s =
      .next (s.inContinuousPass i js ls 0 (passPhase i.cfgWidth.toNat i.cfgHeight.toNat 0) s.wreg 0))
    (k : Nat) (hk : k ≤ i.cfgWidth.toNat * i.cfgHeight.toNat) :
    ∃ v, runSteps (2 * k + 1) s = .next
      (s.inContinuousPass i js ls k (passPhase i.cfgWidth.toNat i.cfgHeight.toNat k) v (2 * k)) := by
  induction k with
  | zero => exact ⟨s.wreg, runSteps_succ hstart⟩
  | succ k ih =>
    obtain ⟨v, hrun⟩ := ih (Nat.le_of_succ_le hk)
    rw [passPhase, if_neg (by omega)] at hrun
    refine ⟨shownWord i js k, ?_⟩
    rw [show 2 * (k + 1) + 1 = 2 * k + 1 + (1 + 1) by omega, runSteps_add hrun,
      runSteps_succ (step_fetch_inContinuousPass ls hserve hk hlen v),
      runSteps_succ (step_emit_inContinuousPass ls hserve hk hlen)]
    rfl

end Continuous

/-- Settles O50: after START and 2k edges pixel k is requested (`runSteps_inContinuousPass`), one edge later its
beat is offered, and when no pixel is left the block is in DONE. -/
theorem continuousServiceTiming : Obligations.ContinuousServiceTiming := by
  intro s i js ls hbusy hrst hstart hserve hlen hpend
  rw [Nat.mul_assoc] at hlen ⊢
  have hrun := runSteps_inContinuousPass ls hserve hlen (step_start_inContinuousPass ls hbusy hrst hstart hpend)
  refine ⟨fun k hk => ?_, ?_⟩
  · obtain ⟨v, hfetch⟩ := hrun k hk.le
    rw [passPhase, if_neg hk.ne] at hfetch
    have hemit : runSteps (2 * k + 2) s =
        .next (s.inContinuousPass i js ls k .emit (shownWord i js k) (2 * k + 1)) :=
      (runSteps_add (b := 1) hfetch).trans (runSteps_succ (step_fetch_inContinuousPass ls hserve hk hlen v))
    exact ⟨⟨_, hfetch, (fetched_inContinuousPass ls hserve (by omega) k v).1, idx_inContinuousPass ls hk ..⟩,
      ⟨_, hemit, (fetched_inContinuousPass ls hserve (by omega) k _).2, idx_inContinuousPass ls hk ..⟩⟩
  · obtain ⟨v, hend⟩ := hrun _ le_rfl
    rw [passPhase, if_pos rfl] at hend
    exact ⟨_, hend, rfl⟩

end Sys2Proof.Machine
end
